-- ==== Sys2Proof/Word.lean ====
section
/-! DEFINITION. The units the XYR core works in: bytes, ticks of the host's clock, and the
handles of open files. -/

namespace Sys2Proof

/-- A byte: 8 bits, bit 7 the most significant (00_scope.md R10). -/
abbrev Byte := BitVec 8

/-- A tick count of the host's clock, an unbounded natural as R9 allows (log entry 10). -/
abbrev Time := Nat

/-- The handle of an open file: opaque, stored and passed back, never computed on (10_state.md R38). -/
abbrev Handle := Nat

end Sys2Proof
end

