-- ==== Sys2Proof/Config.lean ====
section
/-! DEFINITION. What is fixed for one machine: the parameters of 00_scope.md R9 and the free values
(the storage environment's unscripted answers, 93_implementation_defined.md U5). -/

namespace Sys2Proof.Config

/-- Free value: `T_SHORT` less one (R9: OPEN, with `0 < T_SHORT < T_LONG`). Log entry 9. -/
opaque shortLessOne : Nat

/-- Free value: `T_LONG - T_SHORT` less one. Log entry 9. -/
opaque gapLessOne : Nat

/-- `T_SHORT`, the inter-byte interval: any positive number (R9). -/
def tShort : Time := shortLessOne + 1

/-- `T_LONG`, the inter-block interval: any number above `T_SHORT` (R9). -/
def tLong : Time := tShort + (gapLessOne + 1)

/-- `TIME_BITS` (R9): the width of `now` in a host command. -/
def timeBits : Nat := 64

/-- `FNAME_MAX` (R9): the capacity of `current_filename`, terminator not counted. -/
def fnameMax : Nat := 64

/-- `BUF_PHYS` (R9): the physical bytes of `receive_buffer`. -/
def bufPhys : Nat := 1024

/-- The largest value of `FSIZE_BITS` = 32 bits (R9), at which a parsed size saturates (R205). -/
def fsizeMax : Nat := 0xFFFFFFFF

/-- Free value: the answer of the `n`-th unscripted `ST.open_for_write` (U5). Log entry 11. -/
opaque openAnswer : Nat → Option Handle

/-- Free value: the answer of the `n`-th unscripted `ST.write` (U5). Log entry 11. -/
opaque writeAnswer : Nat → Bool

end Sys2Proof.Config
end

