-- ==== Sys2Proof/Syntax.lean ====
section
/-! DEFINITION. The operations of the XYR core: one constructor of `Instr` per row of
spec/opcode_table.json, in the table's order, and the closed sets of names they use. -/

namespace Sys2Proof

/-- The eight values of the `state` register (10_state.md R21). -/
inductive FsmState
  | idle | blockStart | blockNumber | blockNumberCheck
  | dataBlock | dataCheck | dataCheckCrc | purge
deriving DecidableEq, Repr

/-- The closed set of reply bytes the core sends (10_state.md R28, 30_encoding.md R97). -/
inductive Reply
  | ack | nak | can | c
deriving DecidableEq, Repr

/-- The two payload lengths, 128 and 1024: the values of `block_size` and `buffer_capacity` (R24, R27). -/
inductive BlockLen
  | len128 | len1024
deriving DecidableEq, Repr

/-- The four formats of 30_encoding.md R90. -/
inductive Format
  | wire | reply | host | internal
deriving DecidableEq, Repr

/-- Why a decoder reads no operation. -/
inductive Reject
  /-- no byte at all -/
  | noBytes
  /-- a host record whose first byte has a bit above `cmd[2:0]` -/
  | commandHighBits
  /-- a START record whose flag byte has a bit above `cap1k` -/
  | flagHighBits
  /-- a host record that ends inside its arguments -/
  | truncatedArguments
  /-- a wire byte in `Idle`, where none is consumed (R100) -/
  | noByteInIdle
  /-- a byte that is none of the four replies (R97) -/
  | notAReply
  /-- format I has no bit pattern (R106) -/
  | noBitPattern
deriving DecidableEq, Repr

/-- An operation (00_scope.md R3). `now` is the time argument of the command that runs it
(10_state.md R40; log entry 18). -/
inductive Instr
  -- format W: one received byte, decoded by `state` (30_encoding.md R100)
  | bsSoh (now : Time)
  | bsStx (now : Time)
  | bsEot (now : Time)
  | bsOther (b : Byte) (now : Time)
  | bnByte (b : Byte) (now : Time)
  | bncByte (b : Byte) (now : Time)
  | dbByte (b : Byte) (now : Time)
  | dcByte (b : Byte) (now : Time)
  | dccByte (b : Byte) (now : Time)
  | pgByte (b : Byte) (now : Time)
  -- format H: host commands (R98, R99)
  | nop
  | start (now : Time) (crc batch cap1k : Bool) (name : List Byte) (fileSize : BitVec 32)
  | poll (now : Time)
  | reset
  | query
  | reserved5
  | reserved6
  | reserved7
  -- format I: internal operations (R90, R106)
  | timeout (now : Time)
  | toRetry (now : Time)
  | toAbort
  | accClr
  | accSum (b : Byte)
  | accCrc (b : Byte)
  | engUpd (b : Byte)
  | vNak
  | verdict (now : Time)
  | vNew (now : Time)
  | vHdr
  | vDup
  | hdrParse
  | fileOpen
  | faultStorage
  | emit (r : Reply)
  | setPending (r : Reply)
  | enterIdle
  | rst
  -- format T: one transmitted reply byte (R91, R97)
  | ack
  | nak
  | can
  | c
deriving DecidableEq, Repr

end Sys2Proof
end

