-- ==== Sys2Proof/WellFormed.lean ====
section
/-! DEFINITION. The operand ranges of an operation, as 30_encoding.md R91, R99 and R100 and
42_protocol_fsm.md R161 give them. -/

namespace Sys2Proof

/-- `now` fits the `TIME_BITS` of a host command (30_encoding.md R99). -/
def timeFits (now : Time) : Bool := decide (now < 2 ^ Config.timeBits)

/-- BS.OTHER stands for the 253 bytes that are not SOH, STX or EOT (R100). -/
def isOtherHeader (b : Byte) : Bool := b != 0x01#8 && b != 0x02#8 && b != 0x04#8

/-- START's name: `name_len` has 16 bits, and a name that is used has no NUL inside (R99). -/
def nameFits (batch : Bool) (name : List Byte) : Bool :=
  decide (name.length < 2 ^ 16) && (batch || name.all (· != 0x00#8))

/-- Every operand lies in the range its encoding gives it. -/
def Instr.wellFormed : Instr → Bool
  | .bsSoh now | .bsStx now | .bsEot now => timeFits now
  | .bsOther b now => isOtherHeader b && timeFits now
  | .bnByte _ now | .bncByte _ now | .dbByte _ now => timeFits now
  | .dcByte _ now | .dccByte _ now | .pgByte _ now => timeFits now
  | .nop => true
  | .start now _ batch _ name _ => timeFits now && nameFits batch name
  | .poll now => timeFits now
  | .reset | .query | .reserved5 | .reserved6 | .reserved7 => true
  | .timeout now | .toRetry now => timeFits now
  | .toAbort | .accClr | .accSum _ | .accCrc _ | .engUpd _ | .vNak => true
  | .verdict now | .vNew now => timeFits now
  | .vHdr | .vDup | .hdrParse | .fileOpen | .faultStorage => true
  | .emit _ => true
  | .setPending r => r != .ack
  | .enterIdle | .rst | .ack | .nak | .can | .c => true

end Sys2Proof
end

