-- ==== Sys2Proof/Decode.lean ====
section
/-! DEFINITION. The codings of 30_encoding.md: control bytes, state codes, host command records, and
the selection of the operations that have no bits of their own. Decoders first, then the encoder. -/

namespace Sys2Proof

/-! ### Codes of the closed sets -/

/-- The code of `state` (10_state.md R21). -/
def FsmState.code : FsmState → BitVec 3
  | .idle => 0 | .blockStart => 1 | .blockNumber => 2 | .blockNumberCheck => 3
  | .dataBlock => 4 | .dataCheck => 5 | .dataCheckCrc => 6 | .purge => 7

/-- The byte of a reply (30_encoding.md R91). -/
def Reply.byte : Reply → Byte
  | .ack => 0x06#8 | .nak => 0x15#8 | .can => 0x18#8 | .c => 0x43#8

/-- The number of bytes a length stands for (R24, R27). -/
def BlockLen.bytes : BlockLen → Nat
  | .len128 => 128 | .len1024 => 1024

/-- START's `cap1k` (R99): 0 for 128, 1 for 1024. -/
def capacityOf (cap1k : Bool) : BlockLen := if cap1k then .len1024 else .len128

/-! ### Numbers in a host record (log entry 3: least significant byte first) -/

/-- The number that bytes stand for, the first byte the least significant. -/
def ofBytes : List Byte → Nat
  | [] => 0
  | b :: bs => b.toNat + 256 * ofBytes bs

/-- The `n` low bytes of `v`, least significant first. -/
def toBytes : Nat → Nat → List Byte
  | 0, _ => []
  | n + 1, v => BitVec.ofNat 8 v :: toBytes n (v / 256)

/-- The first `n` bytes and what follows them, if there are so many. -/
def takeBytes : Nat → List Byte → Option (List Byte × List Byte)
  | 0, bs => some ([], bs)
  | _ + 1, [] => none
  | n + 1, b :: bs => (takeBytes n bs).map fun p => (b :: p.1, p.2)

/-! ### Format W -/

/-- The operation a received byte selects in each state (30_encoding.md R100, 42_protocol_fsm.md R169);
in `Idle` no byte is consumed. -/
def decodeWire (st : FsmState) (now : Time) (b : Byte) : Option Instr :=
  match st with
  | .idle => none
  | .blockStart =>
    if b = 0x01#8 then some (.bsSoh now)
    else if b = 0x02#8 then some (.bsStx now)
    else if b = 0x04#8 then some (.bsEot now)
    else some (.bsOther b now)
  | .blockNumber => some (.bnByte b now)
  | .blockNumberCheck => some (.bncByte b now)
  | .dataBlock => some (.dbByte b now)
  | .dataCheck => some (.dcByte b now)
  | .dataCheckCrc => some (.dccByte b now)
  | .purge => some (.pgByte b now)

/-! ### Format H -/

/-- POLL's argument: `now`, 8 bytes (R99; layout log entry 3). -/
def decodePoll (bs : List Byte) : Except Reject (Instr × List Byte) :=
  match takeBytes 8 bs with
  | none => .error .truncatedArguments
  | some (t, rest) => .ok (.poll (ofBytes t), rest)

/-- START's arguments in R99's order: `now` (8 bytes), the three 1-bit fields in one byte, `name_len`
(2 bytes), `name`, `file_size` (4 bytes) (layout log entry 3). -/
def decodeStart (bs : List Byte) : Except Reject (Instr × List Byte) :=
  match takeBytes 8 bs with
  | none => .error .truncatedArguments
  | some (_, []) => .error .truncatedArguments
  | some (t, flags :: r₁) =>
    if 8 ≤ flags.toNat then .error .flagHighBits
    else match takeBytes 2 r₁ with
      | none => .error .truncatedArguments
      | some (n, r₂) => match takeBytes (ofBytes n) r₂ with
        | none => .error .truncatedArguments
        | some (name, r₃) => match takeBytes 4 r₃ with
          | none => .error .truncatedArguments
          | some (sz, rest) =>
            .ok (.start (ofBytes t) (flags.getLsbD 0) (flags.getLsbD 1) (flags.getLsbD 2) name
              (BitVec.ofNat 32 (ofBytes sz)), rest)

/-- The command code `cmd[2:0]` (R98) selects the command; no code is illegal (R103 c). -/
def decodeHost : List Byte → Except Reject (Instr × List Byte)
  | [] => .error .noBytes
  | cmd :: args =>
    if 8 ≤ cmd.toNat then .error .commandHighBits
    else match cmd.toNat with
      | 0 => .ok (.nop, args)
      | 1 => decodeStart args
      | 2 => decodePoll args
      | 3 => .ok (.reset, args)
      | 4 => .ok (.query, args)
      | 5 => .ok (.reserved5, args)
      | 6 => .ok (.reserved6, args)
      | _ => .ok (.reserved7, args)

/-! ### Format T -/

/-- The reply a transmitted byte stands for (R91, R97). -/
def decodeReply (b : Byte) : Option Instr :=
  if b = 0x06#8 then some .ack
  else if b = 0x15#8 then some .nak
  else if b = 0x18#8 then some .can
  else if b = 0x43#8 then some .c
  else none

/-! ### Format I: selection by register values (opcode_table.json `select`) -/

/-- ENG.UPD selects the engine operation by `crc_mode` (40_crc_engine.md R125). -/
def selectEngine (crcMode : Bool) (b : Byte) : Instr :=
  if crcMode then .accCrc b else .accSum b

/-- TO selects its branch by `pending_reply` (44_timeout_retry.md R222). -/
def selectTimeout (pending : Reply) (now : Time) : Instr :=
  if pending = .can then .toAbort else .toRetry now

/-- `Verdict(match)` (42_protocol_fsm.md R173 to R176). -/
def selectCheck (isMatch : Bool) (now : Time) : Instr :=
  if isMatch then .verdict now else .vNak

/-- VERDICT selects new data, then header, then duplicate (R176). -/
def selectVerdict (blockNumber expected : Byte) (batchMode : Bool) (now : Time) : Instr :=
  if blockNumber = expected then .vNew now
  else if batchMode = true ∧ blockNumber = 0x00#8 then .vHdr
  else .vDup

/-! ### One decoder over the formats -/

/-- Read one operation in the format its agent uses: a byte of the line in state `st` under a POLL at
`now`, a reply byte, or a host record. Format I has no bits (R106). -/
def decode (fmt : Format) (st : FsmState) (now : Time) (bs : List Byte) :
    Except Reject (Instr × List Byte) :=
  match fmt with
  | .host => decodeHost bs
  | .internal => .error .noBitPattern
  | .wire =>
    match bs with
    | [] => .error .noBytes
    | b :: rest =>
      match decodeWire st now b with
      | some i => .ok (i, rest)
      | none => .error .noByteInIdle
  | .reply =>
    match bs with
    | [] => .error .noBytes
    | b :: rest =>
      match decodeReply b with
      | some i => .ok (i, rest)
      | none => .error .notAReply

/-! ### Encoder -/

/-- The format of an operation (opcode_table.json `format`). -/
def Instr.format : Instr → Format
  | .bsSoh _ | .bsStx _ | .bsEot _ | .bsOther _ _ | .bnByte _ _ | .bncByte _ _ => .wire
  | .dbByte _ _ | .dcByte _ _ | .dccByte _ _ | .pgByte _ _ => .wire
  | .nop | .start _ _ _ _ _ _ | .poll _ | .reset | .query => .host
  | .reserved5 | .reserved6 | .reserved7 => .host
  | .timeout _ | .toRetry _ | .toAbort | .accClr | .accSum _ | .accCrc _ | .engUpd _ => .internal
  | .vNak | .verdict _ | .vNew _ | .vHdr | .vDup | .hdrParse | .fileOpen => .internal
  | .faultStorage | .emit _ | .setPending _ | .enterIdle | .rst => .internal
  | .ack | .nak | .can | .c => .reply

/-- The state in which a format W operation is decoded (`fields.state` of the table); `Idle` for the others. -/
def Instr.wireState : Instr → FsmState
  | .bsSoh _ | .bsStx _ | .bsEot _ | .bsOther _ _ => .blockStart
  | .bnByte _ _ => .blockNumber
  | .bncByte _ _ => .blockNumberCheck
  | .dbByte _ _ => .dataBlock
  | .dcByte _ _ => .dataCheck
  | .dccByte _ _ => .dataCheckCrc
  | .pgByte _ _ => .purge
  | .nop | .start _ _ _ _ _ _ | .poll _ | .reset | .query => .idle
  | .reserved5 | .reserved6 | .reserved7 => .idle
  | .timeout _ | .toRetry _ | .toAbort | .accClr | .accSum _ | .accCrc _ | .engUpd _ => .idle
  | .vNak | .verdict _ | .vNew _ | .vHdr | .vDup | .hdrParse | .fileOpen => .idle
  | .faultStorage | .emit _ | .setPending _ | .enterIdle | .rst => .idle
  | .ack | .nak | .can | .c => .idle

/-- The time a format W operation is run at (its POLL's `now`); 0 for the others. -/
def Instr.wireNow : Instr → Time
  | .bsSoh now | .bsStx now | .bsEot now | .bsOther _ now => now
  | .bnByte _ now | .bncByte _ now | .dbByte _ now => now
  | .dcByte _ now | .dccByte _ now | .pgByte _ now => now
  | .nop | .start _ _ _ _ _ _ | .poll _ | .reset | .query => 0
  | .reserved5 | .reserved6 | .reserved7 => 0
  | .timeout _ | .toRetry _ | .toAbort | .accClr | .accSum _ | .accCrc _ | .engUpd _ => 0
  | .vNak | .verdict _ | .vNew _ | .vHdr | .vDup | .hdrParse | .fileOpen => 0
  | .faultStorage | .emit _ | .setPending _ | .enterIdle | .rst => 0
  | .ack | .nak | .can | .c => 0

/-- START's flag byte: bit 0 `crc`, bit 1 `batch`, bit 2 `cap1k` (log entry 3). -/
def flagByte (crc batch cap1k : Bool) : Byte :=
  BitVec.ofNat 8 (crc.toNat + 2 * batch.toNat + 4 * cap1k.toNat)

/-- The bytes of an operation in its format (R91, R98 to R100); format I has none (R106). -/
def encode : Instr → List Byte
  | .bsSoh _ => [0x01#8]
  | .bsStx _ => [0x02#8]
  | .bsEot _ => [0x04#8]
  | .bsOther b _ => [b]
  | .bnByte b _ => [b]
  | .bncByte b _ => [b]
  | .dbByte b _ => [b]
  | .dcByte b _ => [b]
  | .dccByte b _ => [b]
  | .pgByte b _ => [b]
  | .nop => [0#8]
  | .start now crc batch cap1k name fileSize =>
    1#8 :: (toBytes 8 now ++ [flagByte crc batch cap1k] ++ toBytes 2 name.length ++ name
      ++ toBytes 4 fileSize.toNat)
  | .poll now => 2#8 :: toBytes 8 now
  | .reset => [3#8]
  | .query => [4#8]
  | .reserved5 => [5#8]
  | .reserved6 => [6#8]
  | .reserved7 => [7#8]
  | .timeout _ | .toRetry _ | .toAbort | .accClr | .accSum _ | .accCrc _ | .engUpd _ => []
  | .vNak | .verdict _ | .vNew _ | .vHdr | .vDup | .hdrParse | .fileOpen => []
  | .faultStorage | .emit _ | .setPending _ | .enterIdle | .rst => []
  | .ack => [0x06#8]
  | .nak => [0x15#8]
  | .can => [0x18#8]
  | .c => [0x43#8]

/-! ### A bare word of opcode_table.json (log entry 5) -/

/-- Bytes of the longest command record whose name is empty: code, now, flags, name_len, file_size. -/
def recordBytes : Nat := 16

/-- The word's bytes, padded with zero bytes to a whole record. -/
def tableBytes (nbits w : Nat) : List Byte := toBytes recordBytes (w % 2 ^ nbits)

/-- Which format a bare table word is read in: the formats overlap as numbers, and 0 to 7 are read as
host commands, the reply bytes as replies, any other byte as a wire byte (log entry 5). -/
def tableFormat (bs : List Byte) : Format :=
  match bs with
  | [] => .host
  | b :: _ =>
    if b.toNat < 8 then .host
    else if (decodeReply b).isSome then .reply
    else .wire

/-- The operation the decoder reads from a table word; a wire byte is read in `BlockStart`. -/
def decodeTableWord (nbits w : Nat) : Option Instr :=
  match decode (tableFormat (tableBytes nbits w)) .blockStart 0 (tableBytes nbits w) with
  | .ok (i, _) => some i
  | .error _ => none

end Sys2Proof
end

