-- ==== Sys2Proof/Machine/State.lean ====
section
/-! DEFINITION. The machine's state as plain data: the registers of 10_state.md R20, the environments
the rules name (R42), and the model's own fields for what the host, line and storage do next. -/

namespace Sys2Proof.Machine

/-- Bytes by address, in the canonical form `Memory.wf` of Ops.lean. -/
abbrev Memory := List Host.Cell

/-- The architectural registers, No. 0 to 18 of 10_state.md R20, in that order. -/
structure Regs where
  /-- No. 0, state (R21) -/
  state : FsmState
  /-- No. 1, crc_mode (R22) -/
  crcMode : Bool
  /-- No. 2, batch_mode (R23) -/
  batchMode : Bool
  /-- No. 3, buffer_capacity (R24) -/
  bufferCapacity : BlockLen
  /-- No. 4, expected_block_number (R25) -/
  expectedBlockNumber : Byte
  /-- No. 5, block_number (R26) -/
  blockNumber : Byte
  /-- No. 6, block_size (R27) -/
  blockSize : BlockLen
  /-- No. 7, pending_reply (R28) -/
  pendingReply : Reply
  /-- No. 8, deadline (R30) -/
  deadline : Time
  /-- No. 9, receive_buffer (R31) -/
  receiveBuffer : Memory
  /-- No. 10, bytes_remaining_in_block (R32) -/
  bytesRemainingInBlock : BitVec 11
  /-- No. 11, cursor (R33) -/
  cursor : BitVec 11
  /-- No. 12, acc (R34) -/
  acc : BitVec 16
  /-- No. 13, trailer_hi (R35) -/
  trailerHi : Byte
  /-- No. 14, file_bytes_remaining (R36) -/
  fileBytesRemaining : BitVec 32
  /-- No. 15, current_filename: all FNAME_MAX bytes, index 0 first (R37) -/
  currentFilename : List Byte
  /-- No. 15, fname_len (R37) -/
  fnameLen : BitVec 7
  /-- No. 16, open_file (R38) -/
  openFile : Option Handle
  /-- No. 17, file_completed (R39) -/
  fileCompleted : Bool
  /-- No. 18, storage_error (R41) -/
  storageError : Bool
deriving DecidableEq, Repr

/-- The calls the core makes on transport and storage, with the environment's answers
(20_memory.md R66 to R72, R75). -/
inductive Call
  | rxAvailable (count : Nat)
  | rxRead (b : Byte)
  | txWrite (b : Byte)
  | txFlush
  | stRemove (name : List Byte)
  | stOpen (name : List Byte) (answer : Option Handle)
  | stWrite (h : Handle) (bytes : List Byte) (ok : Bool)
  | stClose (h : Handle)
deriving DecidableEq, Repr

/-- What an operation returns to its invoker: a host command to the host (R241, R246, R249), HDR.PARSE
to V.HDR (R200). The model's own latch (log entry 13). -/
inductive Result
  | nothing
  | accepted
  | refused
  | refusedByStorage
  /-- the model took no command: `now` lies before the session's last one (93_implementation_defined.md
  U8; log entry 10) -/
  | rejected
  | polled (code : BitVec 3)
  | queried (r : Regs)
  | header (name : List Byte) (size : BitVec 32)
deriving DecidableEq, Repr

/-- What an agent outside the core does next (00_scope.md R8; log entry 2). -/
inductive Input
  /-- the host presents one command record -/
  | command (record : List Byte)
  /-- the line appends bytes to the RX queue -/
  | arrive (bytes : List Byte)
  /-- the line takes the oldest bytes away from the TX stream -/
  | taken (count : Nat)
  /-- storage fixes its next answer to `open_for_write` -/
  | openAnswer (answer : Option Handle)
  /-- storage fixes its next answer to `write` -/
  | writeAnswer (ok : Bool)
  /-- power-on reset -/
  | powerOn
deriving DecidableEq, Repr

/-- The whole machine: the core's registers, the environments, and the model's own fields. -/
structure State where
  /-- the core's registers -/
  regs : Regs
  /-- the RX queue, oldest byte first (20_memory.md R66, R67) -/
  rx : List Byte
  /-- the TX stream: the bytes written and not yet taken by the line, oldest first (R69) -/
  tx : List Byte
  /-- every call the core has made on transport and storage, oldest first (R7, R75; log entry 12) -/
  calls : List Call
  /-- what the last command returned (log entry 13) -/
  result : Result
  /-- answers to `open_for_write` already fixed, next first (log entry 11) -/
  openScript : List (Option Handle)
  /-- answers to `write` already fixed, next first (log entry 11) -/
  writeScript : List Bool
  /-- how many answers were drawn as free values (log entry 11) -/
  draws : Nat
  /-- what the agents outside the core do next, first entry first (log entry 2) -/
  inputs : List Input
  /-- the `now` of the last host command that ran with one (log entry 10) -/
  lastNow : Time
deriving DecidableEq, Repr

/-- Why the machine stops with a fault. -/
inductive Fault
  /-- raised by DB.BYTE, and by a POLL that runs it, when `cursor` is 1024 or more: the index does not
  exist (20_memory.md R61). Safe: no run reaches it (R44 d). Log entry 19. -/
  | bufferIndexOutOfRange
deriving DecidableEq, Repr

/-- Why the machine has no meaning for what it is given. -/
inductive Refusal
  /-- raised by an arm of exec whose operation has no meaning yet. Safe. -/
  | notModelled (mnemonic : String)
  /-- raised by step when a host record is no command of the layout. Safe. Log entry 4. -/
  | malformedCommand (why : Reject)
deriving DecidableEq, Repr

/-- The outcome of one operation. -/
abbrev Out := Host.Outcome State Fault Refusal

/-- The registers after power-on reset (70_reset_and_hazards.md R310, 10_state.md R46). `state`,
`pending_reply`, `open_file`, `fname_len` and the two flags are the spec's; every other value is
the model's named one (DESIGN CHOICE, unsafe, log entries 7 and 8). -/
def Regs.reset : Regs where
  state := .idle
  crcMode := false
  batchMode := false
  bufferCapacity := .len128
  expectedBlockNumber := 0
  blockNumber := 0
  blockSize := .len128
  pendingReply := .nak
  deadline := 0
  receiveBuffer := []
  bytesRemainingInBlock := 0
  cursor := 0
  acc := 0
  trailerHi := 0
  fileBytesRemaining := 0
  currentFilename := List.replicate Config.fnameMax 0
  fnameLen := 0
  openFile := none
  fileCompleted := false
  storageError := false

/-- The machine right after power-on reset: no byte queued, no call made, no input pending. -/
def State.reset : State where
  regs := Regs.reset
  rx := []
  tx := []
  calls := []
  result := .nothing
  openScript := []
  writeScript := []
  draws := 0
  inputs := []
  lastNow := 0

end Sys2Proof.Machine
end

