-- ==== Sys2Proof/Machine/Ops.lean ====
section
/-! DEFINITION. The shared operations over the buffer, the transport, the storage and the reply
register, and taking a fault: one operation `raise`, with the return beside it. -/

namespace Sys2Proof.Machine

/-! ### The receive buffer (20_memory.md R60 to R63) -/

/-- What a buffer byte that nothing has written reads as (log entry 8). -/
def Memory.unlisted : Byte := 0x00#8

/-- The byte at an index. -/
def Memory.read : Memory → Nat → Byte
  | [], _ => Memory.unlisted
  | (k, v) :: m, a => if k = a then v else Memory.read m a

/-- Put a byte in front unless it is what an unlisted index reads as. -/
def Memory.cons (a : Nat) (b : Byte) (m : Memory) : Memory :=
  if b = Memory.unlisted then m else (a, b) :: m

/-- Store a byte at an index, keeping the canonical form. -/
def Memory.write : Memory → Nat → Byte → Memory
  | [], a, b => Memory.cons a b []
  | (k, v) :: m, a, b =>
    if a < k then Memory.cons a b ((k, v) :: m)
    else if a = k then Memory.cons a b m
    else (k, v) :: Memory.write m a b

/-- The canonical form: indices strictly rising, no entry equal to what an unlisted index reads as. -/
abbrev Memory.wf (m : Memory) : Prop :=
  m.Pairwise (fun x y => x.1 < y.1) ∧ ∀ c ∈ m, c.2 ≠ Memory.unlisted

/-- Every entry lies in the physical buffer, indices 0 to 1023 (R61). -/
abbrev Memory.inRange (m : Memory) : Prop := ∀ c ∈ m, c.1 < Config.bufPhys

/-- The buffer byte at index `a`. -/
def State.readByte (s : State) (a : Nat) : Byte := Memory.read s.regs.receiveBuffer a

/-- `MemRead(addr, n)` (00_scope.md R11): lowest index first. Both uses have `addr = 0` and `n` at
most 1024 (R63), so every index exists. -/
def memRead (addr n : Nat) (s : State) : List Byte :=
  (List.range n).map fun i => s.readByte (addr + i)

/-- `MemWrite(addr, 1, b)` at an index that exists. -/
def memWrite (addr : Nat) (b : Byte) (s : State) : State :=
  { s with regs := { s.regs with receiveBuffer := Memory.write s.regs.receiveBuffer addr b } }

/-! ### Single registers -/

/-- `state <- st`. -/
def goto (st : FsmState) (s : State) : State := { s with regs := { s.regs with state := st } }

/-- `deadline <- t`. -/
def setDeadline (t : Time) (s : State) : State := { s with regs := { s.regs with deadline := t } }

/-- `acc <- v`. -/
def setAcc (v : BitVec 16) (s : State) : State := { s with regs := { s.regs with acc := v } }

/-- What a command returns to its invoker (log entry 13). -/
def answer (r : Result) (s : State) : State := { s with result := r }

/-! ### Transport (20_memory.md R66 to R70) -/

/-- Record one call of the core on a collaborator, in order (R75). -/
def State.call (s : State) (c : Call) : State := { s with calls := s.calls ++ [c] }

/-- `TX.write_byte(b); TX.flush()` (R69, R70). -/
def sendByte (b : Byte) (s : State) : State :=
  { s with calls := s.calls ++ [.txWrite b, .txFlush], tx := s.tx ++ [b] }

/-- `RX.read_byte()` of a queue whose oldest byte is `b` (R67). -/
def takeByte (b : Byte) (rest : List Byte) (s : State) : State :=
  { s.call (.rxRead b) with rx := rest }

/-! ### Storage (20_memory.md R71, R72) -/

/-- The environment's next answer to `open_for_write`: the scripted one, else a free value (log entry 11). -/
def State.openReply (s : State) : Option Handle :=
  match s.openScript with
  | a :: _ => a
  | [] => Config.openAnswer s.draws

/-- The environment's next answer to `write`: the scripted one, else a free value (log entry 11). -/
def State.writeReply (s : State) : Bool :=
  match s.writeScript with
  | a :: _ => a
  | [] => Config.writeAnswer s.draws

/-- Use up the answer to `open_for_write`. -/
def State.openDrawn (s : State) : State :=
  match s.openScript with
  | _ :: rest => { s with openScript := rest }
  | [] => { s with draws := s.draws + 1 }

/-- Use up the answer to `write`. -/
def State.writeDrawn (s : State) : State :=
  match s.writeScript with
  | _ :: rest => { s with writeScript := rest }
  | [] => { s with draws := s.draws + 1 }

/-- `ST.open_for_write(name)`: the call, with the answer it got. -/
def storageOpen (name : List Byte) (s : State) : State :=
  s.openDrawn.call (.stOpen name s.openReply)

/-- `ST.write(h, bytes)`: the call, with the answer it got. -/
def storageWrite (h : Handle) (bytes : List Byte) (s : State) : State :=
  s.writeDrawn.call (.stWrite h bytes s.writeReply)

/-- `if open_file != none: ST.close(open_file); open_file <- none` (42_protocol_fsm.md R162,
43_batch_header.md R206). -/
def closeFile (s : State) : State :=
  match s.regs.openFile with
  | none => s
  | some h =>
    { s.call (.stClose h) with regs := { s.regs with openFile := none } }

/-! ### Replies (42_protocol_fsm.md R160 to R162) -/

/-- `Set(b)` (R161): store only. -/
def setReply (r : Reply) (s : State) : State :=
  { s with regs := { s.regs with pendingReply := r } }

/-- `Emit(b)` (R160): store and send. -/
def emitReply (r : Reply) (s : State) : State := sendByte r.byte (setReply r s)

/-- `EnterIdle()` (R162). -/
def enterIdle (s : State) : State := goto .idle (closeFile s)

/-! ### The timeout step: fault class F4 and the return from the others (44_timeout_retry.md) -/

/-- TO.RETRY (R223). -/
def timeoutRetry (now : Time) (s : State) : State :=
  goto .blockStart (setDeadline (now + Config.tLong) s)

/-- TO.ABORT (R224). -/
def timeoutAbort (s : State) : State := setReply .nak (enterIdle s)

/-- TO (R222): re-send `pending_reply`, then return (60_exceptions.md R286). -/
def timeoutStep (now : Time) (s : State) : State :=
  if s.regs.pendingReply = .can then timeoutAbort (sendByte s.regs.pendingReply.byte s)
  else timeoutRetry now (sendByte s.regs.pendingReply.byte s)

/-! ### Taking a fault (60_exceptions.md) -/

/-- The six fault classes F1 to F6 (60_exceptions.md R270). -/
inductive FaultClass
  | framing
  | sequence
  | validation
  | timeout (now : Time)
  | storage
  | capacity
deriving DecidableEq, Repr

/-- `raise`: the whole effect of a fault, the writes of R270's table (R284): R272, R273, R274, R275,
R279 and R276 in this order. START's own entry for a storage failure is in Command.lean (R243). -/
def raise (f : FaultClass) (s : State) : State :=
  match f with
  | .framing => goto .purge (setReply .nak s)
  | .sequence => goto .purge (setReply .can s)
  | .validation => goto .blockStart (emitReply .nak s)
  | .timeout now => timeoutStep now s
  | .storage => goto .purge (setReply .can
      { s with regs := { s.regs with storageError := true } })
  | .capacity => goto .purge (setReply .nak s)

end Sys2Proof.Machine
end

