-- ==== Sys2Proof/Machine/Operands.lean ====
section
/-! DEFINITION. How operands are assembled (30_encoding.md R102) and the header fields of a batch
header payload (43_batch_header.md R200 to R205). -/

namespace Sys2Proof.Machine

/-- `current_filename[0 .. fname_len-1]`, the name in use (43_batch_header.md R206). -/
def Regs.fileName (r : Regs) : List Byte := r.currentFilename.take r.fnameLen.toNat

/-- The register after `name` is written to it from index 0: the bytes above keep their value (log
entry 20). -/
def storeName (name old : List Byte) : List Byte := name ++ old.drop name.length

/-- `init_reply` (10_state.md R29). -/
def initReply (crcMode : Bool) : Reply := if crcMode then .c else .nak

/-- `prev`, the block number before the expected one, modulo 256 (42_protocol_fsm.md R170). -/
def prevBlock (expected : Byte) : Byte := expected - 1

/-- `rx_crc = trailer_hi || b`, first byte high (30_encoding.md R102 c). -/
def receivedCrc (hi b : Byte) : BitVec 16 := hi ++ b

/-- `k = min(block_size, file_bytes_remaining)`, compared as naturals (R102 g). -/
def writeCount (r : Regs) : Nat := min r.blockSize.bytes r.fileBytesRemaining.toNat

/-- At most `FNAME_MAX` bytes of a name (43_batch_header.md R202, 45_host_commands.md R241). -/
def boundName (name : List Byte) : List Byte := name.take Config.fnameMax

/-! ### Header fields -/

/-- The bytes before the first NUL, all of them if there is none (R202). -/
def untilNul : List Byte → List Byte
  | [] => []
  | b :: bs => if b = 0x00#8 then [] else b :: untilNul bs

/-- The bytes after the first NUL, none if there is none (R201). -/
def afterNul : List Byte → List Byte
  | [] => []
  | b :: bs => if b = 0x00#8 then bs else afterNul bs

/-- An ASCII digit (R203). -/
def isDigit (b : Byte) : Bool := decide (0x30 ≤ b.toNat) && decide (b.toNat ≤ 0x39)

/-- `sat32` (R205). -/
def sat32 (v : Nat) : Nat := min v Config.fsizeMax

/-- The run of digits at the front, most significant first, saturating (R203, R205). -/
def decimal : Nat → List Byte → Nat
  | v, [] => v
  | v, b :: bs => if isDigit b then decimal (sat32 (v * 10 + (b.toNat - 0x30))) bs else v

/-- The file name of a header payload (R202). -/
def headerName (payload : List Byte) : List Byte := boundName (untilNul payload)

/-- The file size of a header payload (R203). -/
def headerSize (payload : List Byte) : BitVec 32 := BitVec.ofNat 32 (decimal 0 (afterNul payload))

/-- The payload HDR reads: `MemRead(0, block_size)` (R200). -/
def headerPayload (s : State) : List Byte := memRead 0 s.regs.blockSize.bytes s

end Sys2Proof.Machine
end

