-- ==== Sys2Proof/Machine/Flags.lean ====
section
/-! DEFINITION. The two flags `file_completed` and `storage_error` (10_state.md R39, R41) and every
condition a rule tests. -/

namespace Sys2Proof.Machine

/-- `file_completed <- v` (10_state.md R39). -/
def setCompleted (v : Bool) (s : State) : State :=
  { s with regs := { s.regs with fileCompleted := v } }

/-- `storage_error <- v` (10_state.md R41). -/
def setStorageError (v : Bool) (s : State) : State :=
  { s with regs := { s.regs with storageError := v } }

/-- The number pair is good: `b = ~block_number` (30_encoding.md R93). -/
def pairGood (blockNumber b : Byte) : Bool := b == ~~~blockNumber

/-- The block is the expected one or the one before it (42_protocol_fsm.md R170). -/
def inSequence (blockNumber expected : Byte) : Bool :=
  blockNumber == expected || blockNumber == prevBlock expected

/-- `1024 > buffer_capacity` (42_protocol_fsm.md R164). -/
def overCapacity (cap : BlockLen) : Bool := decide (BlockLen.len1024.bytes > cap.bytes)

/-- Checksum trailer: `b = acc[7:0]` (42_protocol_fsm.md R173). -/
def checksumMatches (acc : BitVec 16) (b : Byte) : Bool := b == acc.setWidth 8

/-- CRC trailer: `(trailer_hi || b) = acc` (42_protocol_fsm.md R174). -/
def crcMatches (acc : BitVec 16) (hi b : Byte) : Bool := receivedCrc hi b == acc

/-- `now > deadline`, strict (44_timeout_retry.md R221). -/
def pastDeadline (now deadline : Time) : Bool := decide (deadline < now)

end Sys2Proof.Machine
end

