-- ==== Sys2Proof/Machine/Engine.lean ====
section
/-! DEFINITION. ENG, the checksum/CRC engine (40_crc_engine.md). -/

namespace Sys2Proof.Machine

/-- The checksum update: `zext_16((acc[7:0] + b) mod 256)` (R122). -/
def sumByte (acc : BitVec 16) (b : Byte) : BitVec 16 := (acc.setWidth 8 + b).setWidth 16

/-- One iteration of the CRC: shift left, and the conditional XOR with 0x1021 (R123; log entry 21). -/
def crcBit (x : BitVec 16) (inBit : Bool) : BitVec 16 :=
  if (x.getLsbD 15 ^^ inBit) then (x <<< 1) ^^^ 0x1021#16 else x <<< 1

/-- The iterations for bits `i - 1` down to 0 of `b`. -/
def crcBits (b : Byte) : Nat → BitVec 16 → BitVec 16
  | 0, x => x
  | i + 1, x => crcBits b i (crcBit x (b.getLsbD i))

/-- The CRC update: eight iterations, bit 7 first (R123). -/
def crcByte (acc : BitVec 16) (b : Byte) : BitVec 16 := crcBits b 8 acc

/-- The mode-selected update (R125). -/
def engineByte (crcMode : Bool) (acc : BitVec 16) (b : Byte) : BitVec 16 :=
  if crcMode then crcByte acc b else sumByte acc b

/-- ACC.CLR (R121). -/
def execAccClr (s : State) : Out := .next (setAcc 0 s)

/-- ACC.SUM (R122). -/
def execAccSum (b : Byte) (s : State) : Out := .next (setAcc (sumByte s.regs.acc b) s)

/-- ACC.CRC (R123). -/
def execAccCrc (b : Byte) (s : State) : Out := .next (setAcc (crcByte s.regs.acc b) s)

/-- ENG.UPD (R125). -/
def execEngUpd (b : Byte) (s : State) : Out :=
  .next (setAcc (engineByte s.regs.crcMode s.regs.acc b) s)

end Sys2Proof.Machine
end

