-- ==== Sys2Proof/Machine/Assembler.lean ====
section
/-! DEFINITION. ASM, the block assembler (41_block_assembler.md), and the preamble every micro-step
shares. -/

namespace Sys2Proof.Machine

/-- The preamble of every micro-step: `deadline <- now + T_SHORT` (42_protocol_fsm.md R168). -/
def preamble (now : Time) (s : State) : State := setDeadline (now + Config.tShort) s

/-- Move the assembler past one payload byte: `cursor`, `acc` and `bytes_remaining_in_block` (R140). -/
def advanceBlock (b : Byte) (s : State) : State :=
  { s with regs := { s.regs with
      cursor := s.regs.cursor + 1
      acc := engineByte s.regs.crcMode s.regs.acc b
      bytesRemainingInBlock := s.regs.bytesRemainingInBlock - 1 } }

/-- The end of the payload: `if bytes_remaining_in_block = 0: state <- DataCheck` (R140). -/
def endOfPayload (s : State) : State :=
  if s.regs.bytesRemainingInBlock = 0 then goto .dataCheck s else s

/-- DB.BYTE (R140). An index outside the physical buffer stops the machine (log entry 19). -/
def execDbByte (b : Byte) (now : Time) (s : State) : Out :=
  if s.regs.cursor.toNat < Config.bufPhys then
    .next (endOfPayload (advanceBlock b (memWrite s.regs.cursor.toNat b (preamble now s))))
  else .fault .bufferIndexOutOfRange

end Sys2Proof.Machine
end

