-- ==== Sys2Proof/Machine/Header.lean ====
section
/-! DEFINITION. HDR, the batch-header interpreter, and file opening (43_batch_header.md). -/

namespace Sys2Proof.Machine

/-- FILE.OPEN up to the storage answer: close a file still open, remove, open (R206). -/
def openCurrent (s : State) : State :=
  storageOpen s.regs.fileName ((closeFile s).call (.stRemove s.regs.fileName))

/-- The answer FILE.OPEN gets from storage. -/
def openCurrentReply (s : State) : Option Handle :=
  ((closeFile s).call (.stRemove s.regs.fileName)).openReply

/-- `open_file <- r; file_completed <- 0` (R206). -/
def holdFile (h : Handle) (s : State) : State :=
  setCompleted false { s with regs := { s.regs with openFile := some h } }

/-- The StorageFailure FILE.OPEN raises: START's entry in `Idle` (45_host_commands.md R243), else the
entry of 60_exceptions.md R279 (log entry 16). -/
def openFailed (s : State) : State :=
  if s.regs.state = .idle then setStorageError true s else raise .storage s

/-- HDR.PARSE (R200): reads the buffer, writes no register; its result is what it returns (log entry 13). -/
def execHdrParse (s : State) : Out :=
  .next (answer (.header (headerName (headerPayload s)) (headerSize (headerPayload s))) s)

/-- FILE.OPEN (R206). -/
def execFileOpen (s : State) : Out :=
  .next (match openCurrentReply s with
    | some h => holdFile h (openCurrent s)
    | none => openFailed (openCurrent s))

end Sys2Proof.Machine
end

