-- ==== Sys2Proof/Machine/Fsm.lean ====
section
/-! DEFINITION. FSM, the protocol state machine (42_protocol_fsm.md): helper operations, verdicts, and
the micro-step of every state but `DataBlock`. A micro-step's meaning is `Step(b)` of R169, preamble
included; the byte has been taken from the queue by POLL (log entry 14). -/

namespace Sys2Proof.Machine

/-! ### Helpers -/

/-- EMIT (R160). -/
def execEmit (r : Reply) (s : State) : Out := .next (emitReply r s)

/-- SET (R161). -/
def execSetPending (r : Reply) (s : State) : Out := .next (setReply r s)

/-- ENTERIDLE (R162). -/
def execEnterIdle (s : State) : Out := .next (enterIdle s)

/-- FAULT.STORAGE (60_exceptions.md R279). -/
def execFaultStorage (s : State) : Out := .next (raise .storage s)

/-! ### BlockStart -/

/-- `block_size <- n`. -/
def setBlockSize (n : BlockLen) (s : State) : State :=
  { s with regs := { s.regs with blockSize := n } }

/-- `expected_block_number <- n`. -/
def setExpected (n : Byte) (s : State) : State :=
  { s with regs := { s.regs with expectedBlockNumber := n } }

/-- BS.SOH (R163). -/
def execBsSoh (now : Time) (s : State) : Out :=
  .next (goto .blockNumber (setBlockSize .len128 (preamble now s)))

/-- BS.STX (R164): `block_size` is written in both branches. -/
def execBsStx (now : Time) (s : State) : Out :=
  .next (if overCapacity s.regs.bufferCapacity
    then raise .capacity (setBlockSize .len1024 (preamble now s))
    else goto .blockNumber (setBlockSize .len1024 (preamble now s)))

/-- BS.EOT after the file is closed: end of session, end of batch, or re-arm (R165). -/
def afterEot (s : State) : State :=
  if s.regs.batchMode then
    if s.regs.fnameLen = 0 then goto .idle s
    else goto .blockStart (setReply (initReply s.regs.crcMode) (setExpected 1 s))
  else goto .idle s

/-- BS.EOT (R165). -/
def execBsEot (now : Time) (s : State) : Out :=
  .next (match s.regs.openFile with
    | none => enterIdle (preamble now s)
    | some _ => afterEot (setCompleted true (closeFile (emitReply .ack (preamble now s)))))

/-- BS.OTHER (R166): the byte is discarded. -/
def execBsOther (_b : Byte) (now : Time) (s : State) : Out := .next (preamble now s)

/-! ### BlockNumber and BlockNumberCheck -/

/-- BN.BYTE (R167). -/
def execBnByte (b : Byte) (now : Time) (s : State) : Out :=
  .next (goto .blockNumberCheck
    { preamble now s with regs := { (preamble now s).regs with blockNumber := b } })

/-- The fresh block: accumulator, cursor and count reset (R170). -/
def freshBlock (s : State) : State :=
  setAcc 0 { s with regs := { s.regs with
    cursor := 0
    bytesRemainingInBlock := BitVec.ofNat 11 s.regs.blockSize.bytes } }

/-- BNC.BYTE (R170): complement test, fresh block, sequence test. -/
def execBncByte (b : Byte) (now : Time) (s : State) : Out :=
  .next (if pairGood s.regs.blockNumber b then
      if inSequence s.regs.blockNumber s.regs.expectedBlockNumber
      then goto .dataBlock (freshBlock (preamble now s))
      else raise .sequence (freshBlock (preamble now s))
    else raise .framing (preamble now s))

/-! ### Verdicts -/

/-- V.NAK (R175). -/
def execVNak (s : State) : Out := .next (raise .validation s)

/-- V.DUP (R179). -/
def execVDup (s : State) : Out := .next (goto .blockStart s)

/-- V.NEW after a good write, or after none was due (R177). -/
def acceptBlock (k : Nat) (now : Time) (s : State) : State :=
  goto .blockStart (setDeadline (now + Config.tLong)
    { s with regs := { s.regs with
        fileBytesRemaining := s.regs.fileBytesRemaining - BitVec.ofNat 32 k } })

/-- V.NEW: write the block's bytes to the open file (R177). -/
def writeBlock (h : Handle) (k : Nat) (s : State) : State := storageWrite h (memRead 0 k s) s

/-- `expected_block_number <- (expected_block_number + 1) mod 256`, V.NEW's first write (R177). -/
def countBlock (s : State) : State := setExpected (s.regs.expectedBlockNumber + 1) s

/-- V.NEW (R177): no open file is a storage failure; no write is issued for `k = 0`. -/
def execVNew (now : Time) (s : State) : Out :=
  .next (match s.regs.openFile with
    | none => raise .storage (countBlock s)
    | some h =>
      if writeCount s.regs = 0 then acceptBlock 0 now (countBlock s)
      else if s.writeReply then
        acceptBlock (writeCount s.regs) now (writeBlock h (writeCount s.regs) (countBlock s))
      else raise .storage (writeBlock h (writeCount s.regs) (countBlock s)))

/-- `current_filename <- name; fname_len <- nlen`. -/
def setName (name : List Byte) (s : State) : State :=
  { s with regs := { s.regs with
      currentFilename := storeName name s.regs.currentFilename
      fnameLen := BitVec.ofNat 7 name.length } }

/-- `fname_len <- 0`, the empty name: no byte of the register is written (R178, 45_host_commands.md
R241). -/
def clearName (s : State) : State := { s with regs := { s.regs with fnameLen := 0 } }

/-- `file_bytes_remaining <- size`. -/
def setFileBytes (size : BitVec 32) (s : State) : State :=
  { s with regs := { s.regs with fileBytesRemaining := size } }

/-- V.HDR: the new file's name and size are in place (R178). -/
def nameNextFile (s : State) : State :=
  setFileBytes (headerSize (headerPayload s)) (setName (headerName (headerPayload s)) s)

/-- V.HDR after a successful open (R178). -/
def awaitFirstBlock (s : State) : State :=
  goto .blockStart (setReply (initReply s.regs.crcMode) (setExpected 1 s))

/-- V.HDR (R178): an empty name ends the batch. -/
def execVHdr (s : State) : Out :=
  .next (if headerName (headerPayload s) = [] then enterIdle (clearName s)
    else match openCurrentReply (nameNextFile s) with
      | some h => awaitFirstBlock (holdFile h (openCurrent (nameNextFile s)))
      | none => raise .storage (openCurrent (nameNextFile s)))

/-- VERDICT (R176): the ACK first, then the outcome `selectVerdict` names. -/
def execVerdict (now : Time) (s : State) : Out :=
  match selectVerdict s.regs.blockNumber s.regs.expectedBlockNumber s.regs.batchMode now with
  | .vNew t => execVNew t (emitReply .ack s)
  | .vHdr => execVHdr (emitReply .ack s)
  | _ => execVDup (emitReply .ack s)

/-- `Verdict(match)` (R173, R174). -/
def check (isMatch : Bool) (now : Time) (s : State) : Out :=
  if isMatch then execVerdict now s else execVNak s

/-! ### DataCheck, DataCheckCrc and Purge -/

/-- DC.BYTE (R173): in CRC mode the high trailer byte is kept, nothing is compared. -/
def execDcByte (b : Byte) (now : Time) (s : State) : Out :=
  if s.regs.crcMode then
    .next (goto .dataCheckCrc
      { preamble now s with regs := { (preamble now s).regs with trailerHi := b } })
  else check (checksumMatches s.regs.acc b) now (preamble now s)

/-- DCC.BYTE (R174). -/
def execDccByte (b : Byte) (now : Time) (s : State) : Out :=
  check (crcMatches s.regs.acc s.regs.trailerHi b) now (preamble now s)

/-- PG.BYTE (R180): the byte is discarded. -/
def execPgByte (_b : Byte) (now : Time) (s : State) : Out := .next (preamble now s)

end Sys2Proof.Machine
end

