-- ==== Sys2Proof/Machine/Timer.lean ====
section
/-! DEFINITION. TMR, the timeout step as operations (44_timeout_retry.md). -/

namespace Sys2Proof.Machine

/-- TO (R222): fault class F4 and the return from `Purge` (60_exceptions.md R275, R286). -/
def execTimeout (now : Time) (s : State) : Out := .next (raise (.timeout now) s)

/-- TO.RETRY (R223). -/
def execToRetry (now : Time) (s : State) : Out := .next (timeoutRetry now s)

/-- TO.ABORT (R224). -/
def execToAbort (s : State) : Out := .next (timeoutAbort s)

end Sys2Proof.Machine
end

