-- ==== Sys2Proof/Machine/ReplyByte.lean ====
section
/-! DEFINITION. Format T: the transmission of one reply byte, the part that `Emit` (42_protocol_fsm.md
R160) and TO (44_timeout_retry.md R222) share (log entry 15). -/

namespace Sys2Proof.Machine

/-- ACK, 0x06. -/
def execAck (s : State) : Out := .next (sendByte Reply.ack.byte s)

/-- NAK, 0x15. -/
def execNak (s : State) : Out := .next (sendByte Reply.nak.byte s)

/-- CAN, 0x18. -/
def execCan (s : State) : Out := .next (sendByte Reply.can.byte s)

/-- 'C', 0x43. -/
def execC (s : State) : Out := .next (sendByte Reply.c.byte s)

end Sys2Proof.Machine
end

