-- ==== Sys2Proof/Machine/Command.lean ====
section
/-! DEFINITION. The host commands (45_host_commands.md) and power-on reset (70_reset_and_hazards.md
R310). -/

namespace Sys2Proof.Machine

/-! ### NOP and the reserved codes (R250) -/

/-- NOP: nothing, and nothing returned. -/
def execNop (s : State) : Out := .next (answer .nothing s)

/-- Code 5: executes as NOP. -/
def execReserved5 (s : State) : Out := .next (answer .nothing s)

/-- Code 6: executes as NOP. -/
def execReserved6 (s : State) : Out := .next (answer .nothing s)

/-- Code 7: executes as NOP. -/
def execReserved7 (s : State) : Out := .next (answer .nothing s)

/-! ### START (R241 to R243) -/

/-- The registers START writes in both modes before the file is named (R241). -/
def newSession (crc batch cap1k : Bool) (s : State) : State :=
  { s with regs := { s.regs with
      crcMode := crc
      batchMode := batch
      bufferCapacity := capacityOf cap1k
      expectedBlockNumber := 1
      blockNumber := 0
      blockSize := .len128
      cursor := 0
      bytesRemainingInBlock := 0
      trailerHi := 0
      acc := 0
      fileCompleted := false
      storageError := false } }

/-- START's last part: the initial reply, the deadline, `BlockStart` (R241). -/
def beginSession (now : Time) (s : State) : State :=
  answer .accepted (goto .blockStart (setDeadline (now + Config.tLong)
    (emitReply (initReply s.regs.crcMode) s)))

/-- START's name and size: the caller's, or none in batch mode (R241). -/
def nameSession (name : List Byte) (fileSize : BitVec 32) (s : State) : State :=
  if s.regs.batchMode then setFileBytes 0 (clearName s)
  else setFileBytes fileSize (setName (boundName name) s)

/-- START in non-batch mode: open the named file (R241), or end refused by storage (R243). -/
def openSession (now : Time) (s : State) : State :=
  match openCurrentReply s with
  | some h => beginSession now (holdFile h (openCurrent s))
  | none => answer .refusedByStorage (setStorageError true (openCurrent s))

/-- START (R241); refused outside `Idle` (R242). -/
def execStart (now : Time) (crc batch cap1k : Bool) (name : List Byte) (fileSize : BitVec 32)
    (s : State) : Out :=
  .next (if s.regs.state ≠ .idle then answer .refused s
    else if batch then
      beginSession now (nameSession name fileSize (newSession crc batch cap1k s))
    else openSession now (nameSession name fileSize (newSession crc batch cap1k s)))

/-! ### POLL (R244 to R246) -/

/-- `Step(b)` (42_protocol_fsm.md R169): dispatch by `state`, then by value. In `Idle` no byte is taken. -/
def stepByte (now : Time) (b : Byte) (s : State) : Out :=
  match s.regs.state with
  | .idle => .next s
  | .blockStart =>
    if b = 0x01#8 then execBsSoh now s
    else if b = 0x02#8 then execBsStx now s
    else if b = 0x04#8 then execBsEot now s
    else execBsOther b now s
  | .blockNumber => execBnByte b now s
  | .blockNumberCheck => execBncByte b now s
  | .dataBlock => execDbByte b now s
  | .dataCheck => execDcByte b now s
  | .dataCheckCrc => execDccByte b now s
  | .purge => execPgByte b now s

/-- The loop of R244: take the bytes of the budget, oldest first, until `Idle`; the bytes not taken
stay in the RX queue (R245). -/
def pollLoop (now : Time) : List Byte → State → Out
  | [], s => .next s
  | b :: rest, s =>
    if s.regs.state = .idle then .next s
    else match stepByte now b (takeByte b rest s) with
      | .next t => pollLoop now rest t
      | .fault r => .fault r
      | .refused r => .refused r

/-- POLL returns the state the command left (R246). -/
def returnState (o : Out) : Out :=
  match o with
  | .next t => .next (answer (.polled t.regs.state.code) t)
  | .fault r => .fault r
  | .refused r => .refused r

/-- POLL past the test of `Idle`: the budget is the queue at entry (R245); an empty queue may let the
timeout step happen (44_timeout_retry.md R221). -/
def pollRunning (now : Time) (s : State) : Out :=
  if s.rx = [] then
    .next (if pastDeadline now s.regs.deadline
      then raise (.timeout now) (s.call (.rxAvailable 0)) else s.call (.rxAvailable 0))
  else pollLoop now s.rx (s.call (.rxAvailable s.rx.length))

/-- POLL (R244). -/
def execPoll (now : Time) (s : State) : Out :=
  returnState (if s.regs.state = .idle then .next s else pollRunning now s)

/-! ### RESET, QUERY, power-on reset -/

/-- RESET (R247). -/
def execReset (s : State) : Out := .next (answer .nothing (setReply .nak (enterIdle s)))

/-- QUERY (R249): every register, no side effect. -/
def execQuery (s : State) : Out := .next (answer (.queried s.regs) s)

/-- RST (R310): the registers as `Regs.reset`; no call is made, and what is outside the core stays
(log entry 17). -/
def execRst (s : State) : Out := .next { s with regs := Regs.reset }

end Sys2Proof.Machine
end

