-- ==== Sys2Proof/Machine/Dispatch.lean ====
section
/-! DEFINITION. One arm per operation of spec/opcode_table.json, in the table's order. -/

namespace Sys2Proof.Machine

/-- The meaning of each operation. -/
def exec (i : Instr) (s : State) : Host.Outcome State Fault Refusal :=
  match i with
  | .bsSoh now => Sys2Proof.Machine.execBsSoh now s
  | .bsStx now => Sys2Proof.Machine.execBsStx now s
  | .bsEot now => Sys2Proof.Machine.execBsEot now s
  | .bsOther b now => Sys2Proof.Machine.execBsOther b now s
  | .bnByte b now => Sys2Proof.Machine.execBnByte b now s
  | .bncByte b now => Sys2Proof.Machine.execBncByte b now s
  | .dbByte b now => Sys2Proof.Machine.execDbByte b now s
  | .dcByte b now => Sys2Proof.Machine.execDcByte b now s
  | .dccByte b now => Sys2Proof.Machine.execDccByte b now s
  | .pgByte b now => Sys2Proof.Machine.execPgByte b now s
  | .nop => Sys2Proof.Machine.execNop s
  | .start now crc batch cap1k name fileSize => Sys2Proof.Machine.execStart now crc batch cap1k name fileSize s
  | .poll now => Sys2Proof.Machine.execPoll now s
  | .reset => Sys2Proof.Machine.execReset s
  | .query => Sys2Proof.Machine.execQuery s
  | .reserved5 => Sys2Proof.Machine.execReserved5 s
  | .reserved6 => Sys2Proof.Machine.execReserved6 s
  | .reserved7 => Sys2Proof.Machine.execReserved7 s
  | .timeout now => Sys2Proof.Machine.execTimeout now s
  | .toRetry now => Sys2Proof.Machine.execToRetry now s
  | .toAbort => Sys2Proof.Machine.execToAbort s
  | .accClr => Sys2Proof.Machine.execAccClr s
  | .accSum b => Sys2Proof.Machine.execAccSum b s
  | .accCrc b => Sys2Proof.Machine.execAccCrc b s
  | .engUpd b => Sys2Proof.Machine.execEngUpd b s
  | .vNak => Sys2Proof.Machine.execVNak s
  | .verdict now => Sys2Proof.Machine.execVerdict now s
  | .vNew now => Sys2Proof.Machine.execVNew now s
  | .vHdr => Sys2Proof.Machine.execVHdr s
  | .vDup => Sys2Proof.Machine.execVDup s
  | .hdrParse => Sys2Proof.Machine.execHdrParse s
  | .fileOpen => Sys2Proof.Machine.execFileOpen s
  | .faultStorage => Sys2Proof.Machine.execFaultStorage s
  | .emit r => Sys2Proof.Machine.execEmit r s
  | .setPending r => Sys2Proof.Machine.execSetPending r s
  | .enterIdle => Sys2Proof.Machine.execEnterIdle s
  | .rst => Sys2Proof.Machine.execRst s
  | .ack => Sys2Proof.Machine.execAck s
  | .nak => Sys2Proof.Machine.execNak s
  | .can => Sys2Proof.Machine.execCan s
  | .c => Sys2Proof.Machine.execC s

end Sys2Proof.Machine
end

