-- ==== Sys2Proof/Machine/Fetch.lean ====
section
/-! DEFINITION. Where the next operation comes from: the host's pending records, and how a bare table
word is put there (log entries 1, 2, 5 and 6). -/

namespace Sys2Proof.Machine

/-- The time a host command carries: START's and POLL's argument `now` (10_state.md R40). -/
def hostNow (i : Instr) : Option Time :=
  match i with
  | .start now _ _ _ _ _ | .poll now => some now
  | .nop | .reset | .query | .reserved5 | .reserved6 | .reserved7 => none
  | .bsSoh _ | .bsStx _ | .bsEot _ | .bsOther _ _ | .bnByte _ _ | .bncByte _ _ | .dbByte _ _
  | .dcByte _ _ | .dccByte _ _ | .pgByte _ _ => none
  | .timeout _ | .toRetry _ | .toAbort | .accClr | .accSum _ | .accCrc _ | .engUpd _ | .vNak
  | .verdict _ | .vNew _ | .vHdr | .vDup | .hdrParse | .fileOpen | .faultStorage | .emit _
  | .setPending _ | .enterIdle | .rst => none
  | .ack | .nak | .can | .c => none

/-- `now` must not decrease from one command to the next within a session (70_reset_and_hazards.md
R325); `Idle` is outside a session. -/
def inTime (now : Time) (s : State) : Bool := s.regs.state == .idle || decide (s.lastNow ≤ now)

/-- Run a host command. One whose `now` goes back is rejected and changes nothing
(93_implementation_defined.md U8; log entry 10). -/
def runCommand (i : Instr) (s : State) : Out :=
  match hostNow i with
  | none => exec i s
  | some now =>
    if inTime now s then exec i { s with lastNow := now } else .next (answer .rejected s)

/-- Decode a host record and run its command; bytes after the command are not examined (log entry 4). -/
def runRecord (record : List Byte) (s : State) : Out :=
  match decodeHost record with
  | .ok (i, _) => runCommand i s
  | .error why => .refused (.malformedCommand why)

/-- What one input does: a command runs (R240), the line and the storage act on their own side (R8),
power-on reset runs RST. -/
def runInput (i : Input) (s : State) : Out :=
  match i with
  | .command record => runRecord record s
  | .arrive bytes => .next { s with rx := s.rx ++ bytes }
  | .taken count => .next { s with tx := s.tx.drop count }
  | .openAnswer a => .next { s with openScript := s.openScript ++ [a] }
  | .writeAnswer ok => .next { s with writeScript := s.writeScript ++ [ok] }
  | .powerOn => exec .rst s

/-- The next input, if any; with none the core does nothing (70_reset_and_hazards.md R311). -/
def stepInputs (s : State) : Out :=
  match s.inputs with
  | [] => .next s
  | i :: rest => runInput i { s with inputs := rest }

/-- Put a host record in front of the pending inputs, with no earlier command's time to hold it to. -/
def recordNext (record : List Byte) (s : State) : State :=
  { s with inputs := .command record :: s.inputs, lastNow := 0 }

/-- Put a POLL at `now` there. -/
def pollNext (now : Time) (s : State) : State := recordNext (encode (.poll now)) s

/-- The reply byte `r` where the core takes it from: in `pending_reply`, with an overdue POLL to send it. -/
def placeReply (r : Reply) (s : State) : State :=
  pollNext 1 (goto .blockStart (setDeadline 0 (setReply r { s with rx := [] })))

/-- The wire byte `b` where the core takes it from: alone in the RX queue in `BlockStart`, with a POLL. -/
def placeByte (b : Byte) (s : State) : State :=
  pollNext 0 (goto .blockStart { s with rx := [b] })

/-- Place a table word where the machine takes it from (log entry 6); a host record goes in front of
the pending inputs. -/
def placeWord (nbits w : Nat) (s : State) : State :=
  match decodeTableWord nbits w with
  | some .ack => placeReply .ack s
  | some .nak => placeReply .nak s
  | some .can => placeReply .can s
  | some .c => placeReply .c s
  | some (.bsSoh _) => placeByte 0x01#8 s
  | some (.bsStx _) => placeByte 0x02#8 s
  | some (.bsEot _) => placeByte 0x04#8 s
  | some (.bsOther b _) => placeByte b s
  | _ => recordNext (tableBytes nbits w) s

end Sys2Proof.Machine
end

