-- ==== Sys2Proof/Machine/Step.lean ====
section
/-! DEFINITION. One step of the machine, and the host's way to place a bare table word. -/

namespace Sys2Proof.Machine

/-- One step: what the next input of `State.inputs` does; a host command is one whole step
(00_scope.md R7, R8). -/
def step (s : State) : Host.Outcome State Fault Refusal := stepInputs s

/-- The state whose very next step runs the operation of the table word (log entry 6). -/
def State.withFetchWord (s : State) (nbits w : Nat) : State := placeWord nbits w s

end Sys2Proof.Machine
end

