-- ==== Sys2Proof/Machine/Frame.lean ====
section
/-! DEFINITION. Frames of the wire format (30_encoding.md R92 to R96) and the pseudo-operations of the
trace notation (R105), for statements and tests. -/

namespace Sys2Proof.Machine

/-- The accumulator after a whole payload, from 0: the checksum or the CRC (R94, R95, R141). -/
def payloadCheck (crcMode : Bool) (p : List Byte) : BitVec 16 := p.foldl (engineByte crcMode) 0

/-- The trailer bytes for an accumulator value: one checksum byte, or the CRC high byte first (R92). -/
def trailerOf (crcMode : Bool) (acc : BitVec 16) : List Byte :=
  if crcMode then [acc.extractLsb' 8 8, acc.setWidth 8] else [acc.setWidth 8]

/-- The header byte of a block: SOH for 128, STX for 1024 (R91). -/
def headerByte (l : BlockLen) : Byte := match l with | .len128 => 0x01#8 | .len1024 => 0x02#8

/-- `PAD(s, L, f)` (R105). -/
def pad (s : List Byte) (len : Nat) (f : Byte) : List Byte := s ++ List.replicate (len - s.length) f

/-- `BLK(n, p)`: header, number, complement, payload, trailer (R92, R105). -/
def frame (crcMode : Bool) (l : BlockLen) (n : Byte) (p : List Byte) : List Byte :=
  headerByte l :: n :: ~~~n :: (p ++ trailerOf crcMode (payloadCheck crcMode p))

/-- The calls that closing makes: one close, if a file is open (R162). -/
def closeCalls (h : Option Handle) : List Call :=
  match h with
  | none => []
  | some h => [.stClose h]

/-- The two calls that send one byte (R69, R70). -/
def sendCalls (b : Byte) : List Call := [.txWrite b, .txFlush]

/-- A call on the storage collaborator (20_memory.md R71, R72). -/
def Call.isStorage : Call → Bool
  | .stRemove _ | .stOpen _ _ | .stWrite _ _ _ | .stClose _ => true
  | .rxAvailable _ | .rxRead _ | .txWrite _ | .txFlush => false

/-- The storage calls made so far, in order. -/
def State.storageCalls (s : State) : List Call := s.calls.filter Call.isStorage

/-- These calls send exactly these bytes, every one a reply byte and followed at once by a flush. -/
def SendsReplies : List Call → List Byte → Prop
  | [], sent => sent = []
  | .txWrite b :: .txFlush :: rest, sent =>
    ∃ r : Reply, b = r.byte ∧ ∃ more, sent = b :: more ∧ SendsReplies rest more
  | .txWrite _ :: _, _ => False
  | .txFlush :: _, _ => False
  | _ :: rest, sent => SendsReplies rest sent

/-- A byte or a count asked of the receive queue (20_memory.md R66, R67). -/
def Call.isReceive : Call → Bool
  | .rxAvailable _ | .rxRead _ => true
  | .txWrite _ | .txFlush | .stRemove _ | .stOpen _ _ | .stWrite _ _ _ | .stClose _ => false

/-- The byte a call takes from the receive queue, if it takes one (R67). -/
def Call.byteRead : Call → Option Byte
  | .rxRead b => some b
  | .rxAvailable _ | .txWrite _ | .txFlush | .stRemove _ | .stOpen _ _ | .stWrite _ _ _ | .stClose _ => none

/-- The bytes taken from the receive queue so far, oldest first. -/
def State.bytesTaken (s : State) : List Byte := s.calls.filterMap Call.byteRead

end Sys2Proof.Machine
end

