-- ==== Sys2Proof/Safety.lean ====
section
/-! DEFINITION. What a safe run is: the invariants of 10_state.md R43 and R44 and of
41_block_assembler.md R141, and a step that does not stop. -/

namespace Sys2Proof.Machine

/-- A block's header has been accepted and its trailer is not yet checked. -/
def FsmState.inBlock (st : FsmState) : Bool :=
  match st with
  | .blockNumber | .blockNumberCheck | .dataBlock | .dataCheck | .dataCheckCrc => true
  | .idle | .blockStart | .purge => false

/-- The invariants of R43 and R44, letter by letter, and the forms of the stored data. -/
structure Regs.Inv (r : Regs) : Prop where
  /-- (a) `Idle` holds no open file. -/
  idleClosed : r.state = .idle → r.openFile = none
  /-- (b) in `Purge` the pending reply is NAK or CAN. -/
  purgeReply : r.state = .purge → r.pendingReply = .nak ∨ r.pendingReply = .can
  /-- (c) CAN is pending only in `Purge`. -/
  canPurge : r.pendingReply = .can → r.state = .purge
  /-- (d), last clause: a block in flight fits the capacity. -/
  blockFits : FsmState.inBlock r.state = true → r.blockSize.bytes ≤ r.bufferCapacity.bytes
  /-- (d): cursor and count in `DataBlock`. -/
  inPayload : r.state = .dataBlock → 1 ≤ r.bytesRemainingInBlock.toNat ∧
    r.cursor.toNat + r.bytesRemainingInBlock.toNat = r.blockSize.bytes
  /-- (e): the payload is complete at the trailer. -/
  atTrailer : r.state = .dataCheck ∨ r.state = .dataCheckCrc →
    r.cursor.toNat = r.blockSize.bytes ∧ r.bytesRemainingInBlock.toNat = 0
  /-- (f): `DataCheckCrc` only in CRC mode. -/
  crcState : r.state = .dataCheckCrc → r.crcMode = true
  /-- (g): in checksum mode the high half of `acc` is 0. -/
  sumHigh : r.crcMode = false → r.acc.toNat < 256
  /-- `current_filename` has `FNAME_MAX` bytes (R37). -/
  nameStored : r.currentFilename.length = Config.fnameMax
  /-- `fname_len` counts at most `FNAME_MAX` of them (R37). -/
  nameBound : r.fnameLen.toNat ≤ Config.fnameMax
  /-- In batch mode an open file has a name (42_protocol_fsm.md R165 corner a). -/
  batchNamed : r.batchMode = true → r.openFile ≠ none → r.fnameLen ≠ 0
  /-- The buffer keeps its canonical form. -/
  bufferWf : Memory.wf r.receiveBuffer
  /-- Nothing is stored outside the physical buffer (R62). -/
  bufferRange : Memory.inRange r.receiveBuffer

/-- While a payload is being received and until its trailer is compared, `acc` is the check value of
exactly the bytes stored so far, `receive_buffer[0 .. cursor-1]` (41_block_assembler.md R141). -/
def State.RunningCheck (s : State) : Prop :=
  s.regs.state = .dataBlock ∨ s.regs.state = .dataCheck ∨ s.regs.state = .dataCheckCrc →
    s.regs.acc = payloadCheck s.regs.crcMode (memRead 0 s.regs.cursor.toNat s)

/-- The machine's invariant is its registers'. -/
def State.Inv (s : State) : Prop := s.regs.Inv

/-- A step that goes on. -/
def Goes (o : Out) : Prop := ∃ t, o = .next t

end Sys2Proof.Machine
end

