-- ==== Sys2Proof/Certificates/Slice0/Obligations.lean ====
section
/-! DEFINITION. The statements for the provers, from the numbered rules of spec/. Where a clause rests on
a decision of the spec or of this model, the statement's docstring names it. -/

open Sys2Proof Sys2Proof.Machine

/-! ### ENG (40_crc_engine.md) -/

/-- R122: the checksum update is 8-bit addition modulo 256, the high half of `acc` forced to 0 (decision
D12); nothing else changes. -/
def Obligations.ChecksumUpdateWraps : Prop :=
  ∀ (b : Byte) (s : State), exec (.accSum b) s = .next { s with regs := { s.regs with
    acc := BitVec.ofNat 16 ((s.regs.acc.toNat % 256 + b.toNat) % 256) } }

/-- R122, law: folding ACC.SUM over a payload from 0 gives the sum of its bytes modulo 256. -/
def Obligations.ChecksumIsSumOfBytes : Prop :=
  ∀ p : List Byte, (payloadCheck false p).toNat = (p.map BitVec.toNat).sum % 256

/-- One iteration of the pre-XOR form of the CRC (R124 a). -/
def Sys2Proof.Machine.crcShift (x : BitVec 16) : BitVec 16 :=
  if x.getLsbD 15 then (x <<< 1) ^^^ 0x1021#16 else x <<< 1

/-- R124 (a): ACC.CRC equals the byte-wise pre-XOR form, for every `acc` and byte, and changes only `acc`.
The XOR condition is general knowledge in the spec (G1, log entry 21). -/
def Obligations.CrcUpdatePreXorForm : Prop :=
  ∀ (b : Byte) (s : State), exec (.accCrc b) s = .next { s with regs := { s.regs with
    acc := crcShift^[8] (s.regs.acc ^^^ (b.setWidth 16 <<< 8)) } }

/-- R124 (b): the table form, the table being the CRC of one byte from 0. -/
def Obligations.CrcTableForm : Prop :=
  ∀ (acc : BitVec 16) (b : Byte),
    crcByte acc b = (acc <<< 8) ^^^ crcByte 0 (acc.extractLsb' 8 8 ^^^ b)

/-- R124 (i): the CRC is linear, for payloads of equal length from 0. -/
def Obligations.CrcIsLinear : Prop :=
  ∀ p q : List Byte, p.length = q.length →
    payloadCheck true (p.zipWith (· ^^^ ·) q) = payloadCheck true p ^^^ payloadCheck true q

/-- R124 (ii): feeding the two trailer bytes, high first, after any payload gives 0. -/
def Obligations.CrcResidueIsZero : Prop :=
  ∀ p : List Byte, payloadCheck true (p ++ trailerOf true (payloadCheck true p)) = 0

/-- R274, derived: both arithmetics see every change of a single payload byte. -/
def Obligations.SingleByteChangeDetected : Prop :=
  ∀ (crc : Bool) (pre post : List Byte) (b b' : Byte), b ≠ b' →
    payloadCheck crc (pre ++ b :: post) ≠ payloadCheck crc (pre ++ b' :: post)

/-- R121, R170; for START decision D24: ACC.CLR writes 0 to `acc` and nothing else; BNC.BYTE on a good
complement and an accepted START apply it. -/
def Obligations.AccumulatorCleared : Prop :=
  (∀ s : State, exec .accClr s = .next { s with regs := { s.regs with acc := 0x0000#16 } }) ∧
  (∀ (b : Byte) (now : Time) (s t : State), exec (.bncByte b now) s = .next t →
    b = ~~~s.regs.blockNumber → t.regs.acc = 0) ∧
  (∀ (now : Time) (crc batch cap1k : Bool) (name : List Byte) (size : BitVec 32) (s t : State),
    exec (.start now crc batch cap1k name size) s = .next t → t.result = .accepted → t.regs.acc = 0)

/-- R125: ENG.UPD is ACC.CRC or ACC.SUM by `crc_mode`, completes, and is what DB.BYTE does to `acc`. -/
def Obligations.EngineSelectedByMode : Prop :=
  (∀ (b : Byte) (s : State), ∃ t, exec (.engUpd b) s = .next t ∧
    (s.regs.crcMode = true → exec (.accCrc b) s = .next t) ∧
    (s.regs.crcMode = false → exec (.accSum b) s = .next t)) ∧
  (∀ (b : Byte) (now : Time) (s t u : State), exec (.dbByte b now) s = .next t →
    exec (.engUpd b) s = .next u → t.regs.acc = u.regs.acc)

/-! ### ASM (41_block_assembler.md) -/

/-- R140: one payload byte is stored at `cursor` and nowhere else, `cursor`, the count and `acc` move on,
the last byte leads to `DataCheck`, and no other register, call or byte sent changes. -/
def Obligations.DataByteStored : Prop :=
  ∀ (b : Byte) (now : Time) (s : State), Memory.wf s.regs.receiveBuffer → s.regs.cursor.toNat < 1024 →
    1 ≤ s.regs.bytesRemainingInBlock.toNat →
    ∃ t u, exec (.dbByte b now) s = .next t ∧ exec (.engUpd b) s = .next u ∧
      t.readByte s.regs.cursor.toNat = b ∧
      (∀ a, a ≠ s.regs.cursor.toNat → t.readByte a = s.readByte a) ∧
      t.regs.cursor.toNat = s.regs.cursor.toNat + 1 ∧
      t.regs.bytesRemainingInBlock.toNat = s.regs.bytesRemainingInBlock.toNat - 1 ∧
      t = { s with regs := { s.regs with
        deadline := now + Config.tShort
        receiveBuffer := t.regs.receiveBuffer
        cursor := t.regs.cursor
        bytesRemainingInBlock := t.regs.bytesRemainingInBlock
        acc := u.regs.acc
        state := if s.regs.bytesRemainingInBlock.toNat = 1 then .dataCheck else s.regs.state } }

/-- The model's choice (log entry 19): an index outside the physical buffer stops the machine. -/
def Obligations.DataByteStopsOutsideBuffer : Prop :=
  ∀ (b : Byte) (now : Time) (s : State),
    exec (.dbByte b now) s = .fault .bufferIndexOutOfRange ↔ 1024 ≤ s.regs.cursor.toNat

/-- The model's list form of the buffer (log entry 8): two buffers in canonical form that read the same at
every index are the same data, and of two writes to one index only the last remains. -/
def Obligations.BufferFormIsCanonical : Prop :=
  ∀ (m n : Memory), Memory.wf m → Memory.wf n →
    ((∀ a, Memory.read m a = Memory.read n a) → m = n) ∧
    (∀ a b c, Memory.write (Memory.write m a b) a c = Memory.write m a c)

/-! ### FSM: helpers and replies (42_protocol_fsm.md, 30_encoding.md) -/

/-- R160, R161, R69, R70 (decisions D15, D25): EMIT stores and sends, SET only stores, and each reply
operation only sends its own byte, followed by a flush. -/
def Obligations.RepliesStoredAndSent : Prop :=
  ∀ s : State,
    (∀ r, exec (.emit r) s = .next { s with
      regs := { s.regs with pendingReply := r }
      tx := s.tx ++ [r.byte], calls := s.calls ++ sendCalls r.byte }) ∧
    (∀ r, exec (.setPending r) s = .next { s with regs := { s.regs with pendingReply := r } }) ∧
    exec .ack s = .next { s with tx := s.tx ++ [0x06#8], calls := s.calls ++ sendCalls 0x06#8 } ∧
    exec .nak s = .next { s with tx := s.tx ++ [0x15#8], calls := s.calls ++ sendCalls 0x15#8 } ∧
    exec .can s = .next { s with tx := s.tx ++ [0x18#8], calls := s.calls ++ sendCalls 0x18#8 } ∧
    exec .c s = .next { s with tx := s.tx ++ [0x43#8], calls := s.calls ++ sendCalls 0x43#8 }

/-- R162 (decision D30): entering `Idle` closes the open file, if any, and changes nothing else. -/
def Obligations.EnterIdleClosesFile : Prop :=
  ∀ s : State,
    (s.regs.openFile = none →
      exec .enterIdle s = .next { s with regs := { s.regs with state := .idle } }) ∧
    (∀ h, s.regs.openFile = some h → exec .enterIdle s = .next { s with
      regs := { s.regs with openFile := none, state := .idle }, calls := s.calls ++ [.stClose h] })

/-! ### FSM: the micro-steps -/

/-- R163: SOH starts a 128-byte block; the deadline is the refresh of every consumed byte (the source's
sentence in R168). -/
def Obligations.SohStartsShortBlock : Prop :=
  ∀ (now : Time) (s : State), exec (.bsSoh now) s = .next { s with regs := { s.regs with
    blockSize := .len128, state := .blockNumber, deadline := now + Config.tShort } }

/-- R164: STX starts a 1024-byte block, or is a capacity fault (R276) when `buffer_capacity` is 128:
NAK is set, not sent, and the state is `Purge` (decisions D23, D25, D43). -/
def Obligations.StxChecksCapacity : Prop :=
  ∀ (now : Time) (s : State),
    (s.regs.bufferCapacity.bytes = 1024 → exec (.bsStx now) s = .next { s with regs := { s.regs with
      blockSize := .len1024, state := .blockNumber, deadline := now + Config.tShort } }) ∧
    (s.regs.bufferCapacity.bytes = 128 → exec (.bsStx now) s = .next { s with regs := { s.regs with
      blockSize := .len1024, state := .purge, pendingReply := .nak,
      deadline := now + Config.tShort } })

/-- R165: EOT with no file ends the session without a reply; with a file it sends ACK, closes, sets
`file_completed`, and re-arms in batch mode under a non-empty name (decisions D15, D23, D25, D26). -/
def Obligations.EotClosesFile : Prop :=
  ∀ (now : Time) (s : State),
    (s.regs.openFile = none → exec (.bsEot now) s = .next { s with regs := { s.regs with
      state := .idle, deadline := now + Config.tShort } }) ∧
    (∀ h, s.regs.openFile = some h → exec (.bsEot now) s = .next { s with
      tx := s.tx ++ [0x06#8], calls := s.calls ++ sendCalls 0x06#8 ++ [.stClose h]
      regs :=
        if s.regs.batchMode = true ∧ s.regs.fnameLen.toNat ≠ 0 then { s.regs with
          openFile := none, fileCompleted := true, deadline := now + Config.tShort
          expectedBlockNumber := 1, state := .blockStart
          pendingReply := if s.regs.crcMode then .c else .nak }
        else { s.regs with
          openFile := none, fileCompleted := true, deadline := now + Config.tShort
          pendingReply := .ack, state := .idle } })

/-- R166, R180 (decisions D14, D16, D23, D41): a byte that is no header in `BlockStart`, and any byte in
`Purge`, moves the deadline and does nothing else. -/
def Obligations.DiscardedBytesMoveDeadlineOnly : Prop :=
  ∀ (b : Byte) (now : Time) (s : State),
    exec (.bsOther b now) s = .next { s with regs := { s.regs with deadline := now + Config.tShort } } ∧
    exec (.pgByte b now) s = .next { s with regs := { s.regs with deadline := now + Config.tShort } }

/-- R167: the raw block-number byte is recorded, unchecked; the deadline is the refresh of every consumed
byte (the source's sentence in R168). -/
def Obligations.BlockNumberRecorded : Prop :=
  ∀ (b : Byte) (now : Time) (s : State), exec (.bnByte b now) s = .next { s with regs := { s.regs with
    blockNumber := b, state := .blockNumberCheck, deadline := now + Config.tShort } }

/-- R170, R272, R273: framing fault before sequence fault; a good block starts fresh and is the expected
one or the one before it modulo 256 (decisions D25, D34, D43). -/
def Obligations.BlockNumberCheckOutcomes : Prop :=
  ∀ (b : Byte) (now : Time) (s : State), exec (.bncByte b now) s = .next { s with regs :=
    if s.regs.blockNumber ^^^ b ≠ 0xFF#8 then { s.regs with
      deadline := now + Config.tShort, pendingReply := .nak, state := .purge }
    else if s.regs.blockNumber = s.regs.expectedBlockNumber ∨
        (s.regs.blockNumber.toNat + 1) % 256 = s.regs.expectedBlockNumber.toNat then { s.regs with
      deadline := now + Config.tShort, acc := 0, cursor := 0
      bytesRemainingInBlock := BitVec.ofNat 11 s.regs.blockSize.bytes, state := .dataBlock }
    else { s.regs with
      deadline := now + Config.tShort, acc := 0, cursor := 0
      bytesRemainingInBlock := BitVec.ofNat 11 s.regs.blockSize.bytes
      pendingReply := .can, state := .purge } }

/-- R173 (decisions D13, D23): in CRC mode the high trailer byte is only kept; in checksum mode the byte is
compared with the low half of `acc`, and the verdict runs to its end; the deadline is the preamble's
(R168). -/
def Obligations.FirstTrailerByte : Prop :=
  ∀ (b : Byte) (now : Time) (s : State),
    (s.regs.crcMode = true → exec (.dcByte b now) s = .next { s with regs := { s.regs with
      trailerHi := b, state := .dataCheckCrc, deadline := now + Config.tShort } }) ∧
    (s.regs.crcMode = false → ∃ t, exec (.dcByte b now) s = .next t ∧
      exec (if b.toNat = s.regs.acc.toNat % 256 then .verdict now else .vNak)
        { s with regs := { s.regs with deadline := now + Config.tShort } } = .next t)

/-- R174 (decisions D13, D23): the two trailer bytes, the first (high) one kept in `trailer_hi` (R35, R173),
are compared as 16 bits with `acc` after the second, and the verdict runs to its end; the deadline is the
preamble's (R168). -/
def Obligations.CrcTrailerCompared : Prop :=
  ∀ (b : Byte) (now : Time) (s : State), ∃ t, exec (.dccByte b now) s = .next t ∧
    exec (if 256 * s.regs.trailerHi.toNat + b.toNat = s.regs.acc.toNat then .verdict now else .vNak)
      { s with regs := { s.regs with deadline := now + Config.tShort } } = .next t

/-- R175, R274 (decisions D15, D25): a mismatch stores NAK and sends it at once (R160), with a flush (R70),
and returns to `BlockStart`; nothing else changes. -/
def Obligations.MismatchSendsNak : Prop :=
  ∀ s : State, exec .vNak s = .next { s with
    regs := { s.regs with pendingReply := .nak, state := .blockStart }
    tx := s.tx ++ [0x15#8], calls := s.calls ++ sendCalls 0x15#8 }

/-- R176 (decisions D15, D19, D25, D42): on a match the ACK goes first, then new data before header before
duplicate; the verdict always completes. -/
def Obligations.VerdictPriority : Prop :=
  ∀ (now : Time) (s : State), ∃ t, exec (.verdict now) s = .next t ∧
    exec (if s.regs.blockNumber = s.regs.expectedBlockNumber then .vNew now
        else if s.regs.batchMode = true ∧ s.regs.blockNumber = 0#8 then .vHdr else .vDup)
      { s with regs := { s.regs with pendingReply := .ack }
               tx := s.tx ++ [0x06#8], calls := s.calls ++ sendCalls 0x06#8 } = .next t

/-- R177, R277 (decisions D23, D28, D29, D33): new data is counted; with no file it is a storage failure;
`k = min(block_size, file_bytes_remaining)` bytes from index 0 go to the open file in one write, none if
`k = 0`; a failed write keeps `file_bytes_remaining`. -/
def Obligations.NewDataWritten : Prop :=
  ∀ (now : Time) (s : State) (k : Nat) (r : Regs),
    k = min s.regs.blockSize.bytes s.regs.fileBytesRemaining.toNat →
    r = { s.regs with
      expectedBlockNumber := BitVec.ofNat 8 ((s.regs.expectedBlockNumber.toNat + 1) % 256) } →
    (s.regs.openFile = none → exec (.vNew now) s = .next { s with
      regs := { r with storageError := true, pendingReply := .can, state := .purge } }) ∧
    (s.regs.openFile ≠ none → k = 0 → exec (.vNew now) s = .next { s with
      regs := { r with deadline := now + Config.tLong, state := .blockStart } }) ∧
    (∀ h, s.regs.openFile = some h → 1 ≤ k → s.writeReply = true →
      exec (.vNew now) s = .next { s.writeDrawn with
        regs := { r with
          fileBytesRemaining := BitVec.ofNat 32 (s.regs.fileBytesRemaining.toNat - k)
          deadline := now + Config.tLong, state := .blockStart }
        calls := s.calls ++ [.stWrite h ((List.range k).map s.readByte) true] }) ∧
    (∀ h, s.regs.openFile = some h → 1 ≤ k → s.writeReply = false →
      exec (.vNew now) s = .next { s.writeDrawn with
        regs := { r with storageError := true, pendingReply := .can, state := .purge }
        calls := s.calls ++ [.stWrite h ((List.range k).map s.readByte) false] })

/-- R178 (decisions D25, D27, D28, D30): a header with an empty name ends the batch; another opens the
named file, with the parsed size, and awaits block 1, or is a storage failure. `name` and `size` are what
HDR.PARSE returns (`HeaderFieldsParsed`). The name is stored from index 0, the register's bytes above it
kept (log entry 20); the empty name writes only `fname_len`. -/
def Obligations.HeaderOpensNextFile : Prop :=
  ∀ (s : State) (name : List Byte) (size : BitVec 32),
    name = headerName (headerPayload s) → size = headerSize (headerPayload s) →
    (name = [] → exec .vHdr s = .next { s with
      regs := { s.regs with fnameLen := 0, openFile := none, state := .idle }
      calls := s.calls ++ closeCalls s.regs.openFile }) ∧
    (∀ h, name ≠ [] → s.openReply = some h → exec .vHdr s = .next { s.openDrawn with
      regs := { s.regs with
        currentFilename := name ++ s.regs.currentFilename.drop name.length
        fnameLen := BitVec.ofNat 7 name.length, fileBytesRemaining := size, openFile := some h
        fileCompleted := false, expectedBlockNumber := 1, state := .blockStart
        pendingReply := if s.regs.crcMode then .c else .nak }
      calls := s.calls ++ (closeCalls s.regs.openFile ++ [.stRemove name, .stOpen name (some h)]) }) ∧
    (name ≠ [] → s.openReply = none → exec .vHdr s = .next { s.openDrawn with
      regs := { s.regs with
        currentFilename := name ++ s.regs.currentFilename.drop name.length
        fnameLen := BitVec.ofNat 7 name.length, fileBytesRemaining := size, openFile := none
        storageError := true, pendingReply := .can, state := .purge }
      calls := s.calls ++ (closeCalls s.regs.openFile ++ [.stRemove name, .stOpen name none]) })

/-- R179, R176 (decisions D15, D19, D23, D25): a matching block that is neither new data nor a batch header
(block 0 outside batch mode among them, D19) is acknowledged, the ACK stored and sent with a flush (D25,
D15), and nothing else: no write, `expected_block_number` and the deadline (R225, D23) as they were; V.DUP
itself only returns to `BlockStart`. -/
def Obligations.DuplicateOnlyAcknowledged : Prop :=
  ∀ (now : Time) (s : State), s.regs.blockNumber ≠ s.regs.expectedBlockNumber →
    ¬(s.regs.batchMode = true ∧ s.regs.blockNumber = 0#8) →
    exec .vDup s = .next { s with regs := { s.regs with state := .blockStart } } ∧
    exec (.verdict now) s = .next { s with
      regs := { s.regs with pendingReply := .ack, state := .blockStart }
      tx := s.tx ++ [0x06#8], calls := s.calls ++ sendCalls 0x06#8 }

/-! ### HDR (43_batch_header.md) -/

/-- The number a run of digit bytes stands for, most significant first (R203). -/
def Sys2Proof.Machine.digitsValue (ds : List Byte) : Nat :=
  ds.foldl (fun v d => v * 10 + (d.toNat - 0x30)) 0

/-- R200 to R203, R205 (decisions D6, D18, D35): HDR.PARSE changes no register, byte or call; the name is
the bytes before the first NUL, at most 64; the size is the longest run of digits right after that NUL,
saturated at 32 bits; with no NUL the size is 0. The result is returned in the model's latch (log 13). -/
def Obligations.HeaderFieldsParsed : Prop :=
  ∀ (s : State) (name : List Byte) (size : BitVec 32),
    name = headerName (headerPayload s) → size = headerSize (headerPayload s) →
    exec .hdrParse s = .next { s with result := .header name size } ∧
    (∀ z, z < s.regs.blockSize.bytes → s.readByte z = 0#8 → (∀ i, i < z → s.readByte i ≠ 0#8) →
      name = ((List.range (min z 64)).map s.readByte) ∧
      ∀ m, z + 1 + m ≤ s.regs.blockSize.bytes →
        (∀ i, i < m → 0x30 ≤ (s.readByte (z + 1 + i)).toNat ∧ (s.readByte (z + 1 + i)).toNat ≤ 0x39) →
        (z + 1 + m < s.regs.blockSize.bytes →
          ¬(0x30 ≤ (s.readByte (z + 1 + m)).toNat ∧ (s.readByte (z + 1 + m)).toNat ≤ 0x39)) →
        size.toNat =
          min (digitsValue ((List.range m).map fun i => s.readByte (z + 1 + i))) 0xFFFFFFFF) ∧
    ((∀ i, i < s.regs.blockSize.bytes → s.readByte i ≠ 0#8) →
      name = ((List.range 64).map s.readByte) ∧ size = 0#32)

/-- R206 (decisions D27, D30; on failure log entry 16): a file still open is closed, the name (the first
`fname_len` bytes of the register) removed, then opened; success holds the handle and clears
`file_completed`; a failure is START's entry in `Idle` (R243) and the storage fault elsewhere (R279). -/
def Obligations.FileOpenCallsInOrder : Prop :=
  ∀ (s : State) (n : List Byte), n = s.regs.currentFilename.take s.regs.fnameLen.toNat →
    (∀ h, s.openReply = some h → exec .fileOpen s = .next { s.openDrawn with
      regs := { s.regs with openFile := some h, fileCompleted := false }
      calls := s.calls ++ (closeCalls s.regs.openFile ++ [.stRemove n, .stOpen n (some h)]) }) ∧
    (s.openReply = none → exec .fileOpen s = .next { s.openDrawn with
      regs := if s.regs.state = .idle then { s.regs with openFile := none, storageError := true }
        else { s.regs with
          openFile := none, storageError := true, pendingReply := .can, state := .purge }
      calls := s.calls ++ (closeCalls s.regs.openFile ++ [.stRemove n, .stOpen n none]) })

/-- R279, R284 (decision D28): the storage fault writes three registers and nothing else. -/
def Obligations.StorageFaultEntry : Prop :=
  ∀ s : State, exec .faultStorage s = .next { s with regs := { s.regs with
    storageError := true, pendingReply := .can, state := .purge } }

/-! ### TMR (44_timeout_retry.md) -/

/-- R222 (decision D15): the timeout step sends `pending_reply` unmodified with a flush, then is TO.ABORT if
it was CAN and TO.RETRY otherwise; it completes. -/
def Obligations.TimeoutResendsPending : Prop :=
  ∀ (now : Time) (s : State), ∃ t, exec (.timeout now) s = .next t ∧
    exec (if s.regs.pendingReply = .can then .toAbort else .toRetry now)
      { s with tx := s.tx ++ [s.regs.pendingReply.byte]
               calls := s.calls ++ sendCalls s.regs.pendingReply.byte } = .next t

/-- R223 (decision D21): a retry waits the long interval in `BlockStart`; nothing else changes. -/
def Obligations.RetryWaitsLong : Prop :=
  ∀ (now : Time) (s : State), exec (.toRetry now) s = .next { s with regs := { s.regs with
    deadline := now + Config.tLong, state := .blockStart } }

/-- R224 (decision D30): an abort enters `Idle`, closing the open file (R162), and puts NAK back; the
deadline and the flags are not written. -/
def Obligations.AbortClosesAndRests : Prop :=
  ∀ s : State, exec .toAbort s = .next { s with
    regs := { s.regs with openFile := none, state := .idle, pendingReply := .nak }
    calls := s.calls ++ closeCalls s.regs.openFile }

/-! ### Host commands (45_host_commands.md) -/

/-- The registers a START in `Idle` leaves before the file and the reply (R241; decision D24): the name
stored from index 0, the register's bytes above it kept (log entry 20). -/
def Sys2Proof.Machine.startRegs (r : Regs) (crc batch cap1k : Bool) (name : List Byte)
    (size : BitVec 32) : Regs :=
  { r with
    crcMode := crc, batchMode := batch, bufferCapacity := if cap1k then .len1024 else .len128
    expectedBlockNumber := 1, blockNumber := 0, blockSize := .len128, cursor := 0
    bytesRemainingInBlock := 0, trailerHi := 0, acc := 0, fileCompleted := false
    storageError := false, currentFilename := name ++ r.currentFilename.drop name.length
    fnameLen := BitVec.ofNat 7 name.length, fileBytesRemaining := size }

/-- R241, batch mode (decisions D15, D23, D24, D25, D37): START in `Idle` makes no storage call, sends the
initial reply and waits the long interval in `BlockStart`; of the name register only `fname_len` is written.
-/
def Obligations.StartBatchSession : Prop :=
  ∀ (now : Time) (crc cap1k : Bool) (name : List Byte) (size : BitVec 32) (s : State) (r : Reply),
    s.regs.state = .idle → r = (if crc then .c else .nak) →
    exec (.start now crc true cap1k name size) s = .next { s with
      regs := { startRegs s.regs crc true cap1k [] 0 with
        pendingReply := r, deadline := now + Config.tLong, state := .blockStart }
      tx := s.tx ++ [r.byte], calls := s.calls ++ sendCalls r.byte, result := .accepted }

/-- R241 and R243, non-batch mode (decisions D6, D15, D23, D24, D25, D27, D28, D30, D44): START in `Idle`
opens the given name, cut to 64 bytes, kept in the register (log entry 20); on failure it ends in `Idle`
with `storage_error`, sending nothing. -/
def Obligations.StartFileSession : Prop :=
  ∀ (now : Time) (crc cap1k : Bool) (name n : List Byte) (size : BitVec 32) (s : State) (r : Reply),
    s.regs.state = .idle → r = (if crc then .c else .nak) → n = name.take 64 →
    (∀ h, s.openReply = some h →
      exec (.start now crc false cap1k name size) s = .next { s.openDrawn with
        regs := { startRegs s.regs crc false cap1k n size with
          openFile := some h, pendingReply := r, deadline := now + Config.tLong, state := .blockStart }
        tx := s.tx ++ [r.byte]
        calls := s.calls ++ (closeCalls s.regs.openFile ++ [.stRemove n, .stOpen n (some h)])
          ++ sendCalls r.byte
        result := .accepted }) ∧
    (s.openReply = none →
      exec (.start now crc false cap1k name size) s = .next { s.openDrawn with
        regs := { startRegs s.regs crc false cap1k n size with
          openFile := none, storageError := true }
        calls := s.calls ++ (closeCalls s.regs.openFile ++ [.stRemove n, .stOpen n none])
        result := .refusedByStorage })

/-- R242 (decision D32): a START in any other state changes nothing but the returned answer. -/
def Obligations.StartRefusedWhileRunning : Prop :=
  ∀ (now : Time) (crc batch cap1k : Bool) (name : List Byte) (size : BitVec 32) (s : State),
    s.regs.state ≠ .idle →
    exec (.start now crc batch cap1k name size) s = .next { s with result := .refused }

/-- R244, R221, R246 with no byte taken (decisions D20, D22, D45): POLL in `Idle` makes no transport call;
with an empty queue it asks once and takes the timeout step only if `now > deadline`. -/
def Obligations.PollWithoutBytes : Prop :=
  ∀ (now : Time) (s : State),
    (s.regs.state = .idle → exec (.poll now) s = .next { s with result := .polled 0 }) ∧
    (s.regs.state ≠ .idle → s.rx = [] → now ≤ s.regs.deadline → exec (.poll now) s = .next { s with
      calls := s.calls ++ [.rxAvailable 0], result := .polled s.regs.state.code }) ∧
    (s.regs.state ≠ .idle → s.rx = [] → s.regs.deadline < now →
      ∃ t, exec (.timeout now) { s with calls := s.calls ++ [.rxAvailable 0] } = .next t ∧
        exec (.poll now) s = .next { t with result := .polled t.regs.state.code })

/-- The run of a POLL's budget: each byte, oldest first, selects its operation by the state (R100) and the
operation is executed, until the budget or the session ends. -/
def Sys2Proof.Machine.PollRun (now : Time) : List Byte → State → State → Prop
  | [], s, t => t = s
  | b :: rest, s, t =>
    (s.regs.state = .idle ∧ t = s) ∨
    ∃ i u, decodeWire s.regs.state now b = some i ∧
      exec i { s with rx := rest, calls := s.calls ++ [.rxRead b] } = .next u ∧ PollRun now rest u t

/-- R244, R245, R169 (decisions D14, D40): a POLL that finds bytes is the run of the operations they decode
to, one by one in order, and returns the state it leaves. -/
def Obligations.PollRunsDecodedBytes : Prop :=
  ∀ (now : Time) (s t' : State), s.regs.state ≠ .idle → s.rx ≠ [] →
    (exec (.poll now) s = .next t' ↔
      ∃ t, PollRun now s.rx { s with calls := s.calls ++ [.rxAvailable s.rx.length] } t ∧
        t' = { t with result := .polled t.regs.state.code })

/-- R245: the bytes a POLL takes are the oldest of the queue, in order, the others stay queued, and a POLL
in which the session does not end takes exactly the bytes of the budget. -/
def Obligations.PollTakesWholeBudget : Prop :=
  ∀ (now : Time) (s t : State), exec (.poll now) s = .next t → s.regs.state ≠ .idle →
    ∃ taken left, s.rx = taken ++ left ∧ t.rx = left ∧ (t.regs.state ≠ .idle → left = []) ∧
      t.bytesTaken = s.bytesTaken ++ taken

/-- R244: from a state with the invariant, POLL completes whatever bytes are queued. -/
def Obligations.PollAlwaysCompletes : Prop :=
  ∀ (now : Time) (s : State), s.Inv → ∃ t, exec (.poll now) s = .next t ∧ t.Inv ∧
    t.result = .polled t.regs.state.code

/-- R143, R124 (iii): bytes delivered in two POLLs at one time leave the same registers, queue, bytes sent
and storage calls as the same bytes in one POLL. -/
def Obligations.SplitDeliveryIsEqual : Prop :=
  ∀ (now : Time) (s u t t' : State) (xs ys : List Byte), xs ≠ [] →
    exec (.poll now) { s with rx := xs } = .next u →
    exec (.poll now) { u with rx := u.rx ++ ys } = .next t' →
    exec (.poll now) { s with rx := xs ++ ys } = .next t →
    t.regs = t'.regs ∧ t.rx = t'.rx ∧ t.tx = t'.tx ∧ t.storageCalls = t'.storageCalls ∧
      t.result = t'.result

/-- R247 (decisions D30, D31): RESET enters `Idle`, closing the open file, and puts NAK back; it sends
nothing and keeps every other register. -/
def Obligations.ResetCommandEndsSession : Prop :=
  ∀ s : State, exec .reset s = .next { s with
    regs := { s.regs with openFile := none, state := .idle, pendingReply := .nak }
    calls := s.calls ++ closeCalls s.regs.openFile, result := .nothing }

/-- R249, R250 (decisions D37, D38): QUERY returns every register and has no side effect; NOP and the codes
5 to 7 do nothing. -/
def Obligations.QueryAndNopChangeNothing : Prop :=
  ∀ s : State,
    exec .query s = .next { s with result := .queried s.regs } ∧
    exec .nop s = .next { s with result := .nothing } ∧
    exec .reserved5 s = .next { s with result := .nothing } ∧
    exec .reserved6 s = .next { s with result := .nothing } ∧
    exec .reserved7 s = .next { s with result := .nothing }

/-- R310 (decision D24): power-on reset from any state, and `State.reset` itself, leave the registers R310
names at its values; no call is made, no byte sent or taken. The values of the other registers are the
model's (log entries 7 and 8) and are not stated here. -/
def Obligations.PowerOnReset : Prop :=
  (∀ s : State, ∃ r : Regs, exec .rst s = .next { s with regs := { r with
    state := .idle, pendingReply := .nak, openFile := none, fnameLen := 0
    fileCompleted := false, storageError := false } }) ∧
  (State.reset.regs.state = .idle ∧ State.reset.regs.pendingReply = .nak ∧
    State.reset.regs.openFile = none ∧ State.reset.regs.fnameLen = 0 ∧
    State.reset.regs.fileCompleted = false ∧ State.reset.regs.storageError = false)

/-! ### Encoding (30_encoding.md) -/

/-- R91, R98 to R100: for every well-formed operation of a format that has bits, decoding its encoding gives
it back, with whatever follows left over (layout of host records: log entry 3). -/
def Obligations.DecodeEncodeRoundTrip : Prop :=
  ∀ (i : Instr) (rest : List Byte), i.wellFormed = true → i.format ≠ .internal →
    decode i.format i.wireState i.wireNow (encode i ++ rest) = .ok (i, rest)

/-- R100, R103: in every state but `Idle` every byte selects an operation, one of that state that is encoded
by that byte; in `Idle` none does. -/
def Obligations.WireDecodeTotal : Prop :=
  ∀ (st : FsmState) (now : Time) (b : Byte),
    (st = .idle → decodeWire st now b = none) ∧
    (st ≠ .idle → ∃ i, decodeWire st now b = some i ∧ i.format = .wire ∧ i.wireState = st ∧
      encode i = [b] ∧ (now < 2 ^ 64 → i.wellFormed = true))

/-- R91, R98, R100: words written out from the spec's tables decode to their operations. -/
def Obligations.KnownWordsDecode : Prop :=
  decode .wire .blockStart 7 [0x01#8, 0xAA#8] = .ok (.bsSoh 7, [0xAA#8]) ∧
  decode .wire .blockStart 7 [0x02#8] = .ok (.bsStx 7, []) ∧
  decode .wire .blockStart 7 [0x04#8] = .ok (.bsEot 7, []) ∧
  decode .wire .blockStart 7 [0x18#8] = .ok (.bsOther 0x18#8 7, []) ∧
  decode .wire .dataBlock 7 [0x04#8] = .ok (.dbByte 0x04#8 7, []) ∧
  decode .wire .purge 7 [0x01#8] = .ok (.pgByte 0x01#8 7, []) ∧
  decode .reply .idle 0 [0x06#8] = .ok (.ack, []) ∧
  decode .reply .idle 0 [0x43#8] = .ok (.c, []) ∧
  decode .host .idle 0 [0x00#8] = .ok (.nop, []) ∧
  decode .host .idle 0 [0x03#8] = .ok (.reset, []) ∧
  decode .host .idle 0 [0x06#8] = .ok (.reserved6, [])

/-! ### The step -/

/-- A step runs the command the host presents (log entries 1 to 4): when the next input is the record of a
well-formed host command, whatever bytes follow it (log entry 4), the step is exec of that command, the
input being used up. A START or POLL has its `now` noted; one whose `now` lies before the session's last
one changes nothing and answers `rejected` (R325, ruling U8 of 93_implementation_defined.md; log entry
10). -/
def Obligations.StepRunsHostCommand : Prop :=
  ∀ (i : Instr) (extra : List Byte) (rest : List Input) (s : State), i.wellFormed = true →
    i.format = .host → s.inputs = .command (encode i ++ extra) :: rest →
    ((∀ now, i ≠ .poll now) → (∀ now crc batch cap1k name size,
        i ≠ .start now crc batch cap1k name size) → step s = exec i { s with inputs := rest }) ∧
    (∀ now, (i = .poll now ∨ ∃ crc batch cap1k name size,
        i = .start now crc batch cap1k name size) →
      (s.regs.state = .idle ∨ s.lastNow ≤ now →
        step s = exec i { s with inputs := rest, lastNow := now }) ∧
      (s.regs.state ≠ .idle → now < s.lastNow →
        step s = .next { s with inputs := rest, result := .rejected }))

/-- The model's inputs (log entries 1, 2, 4 and 11): with none the step changes nothing; the line appends to
the RX queue and takes from the TX stream; storage fixes an answer; power-on reset is RST; a record that is
no command is refused by name. -/
def Obligations.StepRunsOtherInputs : Prop :=
  ∀ (rest : List Input) (s : State),
    (s.inputs = [] → step s = .next s) ∧
    (∀ bs, s.inputs = .arrive bs :: rest →
      step s = .next { s with inputs := rest, rx := s.rx ++ bs }) ∧
    (∀ n, s.inputs = .taken n :: rest →
      step s = .next { s with inputs := rest, tx := s.tx.drop n }) ∧
    (∀ a, s.inputs = .openAnswer a :: rest →
      step s = .next { s with inputs := rest, openScript := s.openScript ++ [a] }) ∧
    (∀ ok, s.inputs = .writeAnswer ok :: rest →
      step s = .next { s with inputs := rest, writeScript := s.writeScript ++ [ok] }) ∧
    (s.inputs = .powerOn :: rest → step s = exec .rst { s with inputs := rest }) ∧
    (∀ bs why, s.inputs = .command bs :: rest → decodeHost bs = .error why →
      step s = .refused (.malformedCommand why))

/-! ### Invariants and whole-machine rules -/

/-- R44 (derived), R43: the invariant holds right after reset (for the registers the spec leaves open, by
the values of log entries 7 and 8). -/
def Obligations.ResetHasInvariant : Prop := State.reset.Inv ∧ State.reset.RunningCheck

/-- R43, R44 (derived), R165 corner (a): every step, whatever the input, keeps the invariant. -/
def Obligations.StepKeepsInvariant : Prop :=
  ∀ s t : State, s.Inv → step s = .next t → t.Inv

/-- R141 (derived): every step keeps `acc` the check value of exactly the payload bytes stored so far. -/
def Obligations.StepKeepsRunningCheck : Prop :=
  ∀ s t : State, s.Inv → s.RunningCheck → step s = .next t → t.RunningCheck

/-- 93_implementation_defined.md ("nothing is stuck"): from a state with the invariant a step goes on,
unless the host presents bytes that are no command of the model's layout (log entry 4). -/
def Obligations.StepGoesOn : Prop :=
  ∀ s : State, s.Inv →
    (∃ t, step s = .next t) ∨
    (∃ bs rest why, s.inputs = .command bs :: rest ∧ decodeHost bs = .error why ∧
      step s = .refused (.malformedCommand why))

/-- R22, R23, R24, R289: while a session runs, no step but power-on reset changes `crc_mode`, `batch_mode`
or `buffer_capacity`. -/
def Obligations.ModesFixedForSession : Prop :=
  ∀ s t : State, step s = .next t → s.regs.state ≠ .idle → s.inputs.head? ≠ some .powerOn →
    t.regs.crcMode = s.regs.crcMode ∧ t.regs.batchMode = s.regs.batchMode ∧
      t.regs.bufferCapacity = s.regs.bufferCapacity

/-- R145, with decisions D22 and D25: no step stores at an index of `buffer_capacity` or above (power-on
reset aside, which leaves the buffer unspecified); a 1024-byte block is in `DataBlock` only when the
capacity is 1024; STX against 128 bytes stores nothing, sets NAK and purges (D25: it is set, not sent), and
the NAK is sent by the first POLL strictly past the deadline with nothing queued (D22, D25). -/
def Obligations.StoresStayInCapacity : Prop :=
  (∀ s t : State, s.Inv → step s = .next t → s.inputs.head? ≠ some .powerOn →
    ∀ a, s.regs.bufferCapacity.bytes ≤ a → t.readByte a = s.readByte a) ∧
  (∀ s : State, s.Inv → s.regs.state = .dataBlock → s.regs.blockSize.bytes = 1024 →
    s.regs.bufferCapacity.bytes = 1024) ∧
  (∀ (now : Time) (s : State), s.regs.bufferCapacity.bytes = 128 →
    ∃ t, exec (.bsStx now) s = .next t ∧ t.regs.state = .purge ∧ t.regs.pendingReply = .nak ∧
      (∀ a, t.readByte a = s.readByte a) ∧
      ∀ later, t.regs.deadline < later → t.rx = [] →
        ∃ u, exec (.poll later) t = .next u ∧ u.tx = t.tx ++ [0x15#8] ∧ u.regs.state = .blockStart)

/-- R62: DB.BYTE, POLL (which runs it) and power-on reset aside, no operation changes a buffer byte. -/
def Obligations.OnlyDataBytesAreStored : Prop :=
  ∀ (i : Instr) (s t : State), (∀ b now, i ≠ .dbByte b now) → (∀ now, i ≠ .poll now) → i ≠ .rst →
    exec i s = .next t → ∀ a, t.readByte a = s.readByte a

/-- R69, R70, R97 (decision D15): whatever a step does, the calls it adds send only reply bytes, each
followed at once by a flush, and the TX stream grows by exactly the bytes sent. -/
def Obligations.OnlyRepliesAreSent : Prop :=
  ∀ (s t : State), step s = .next t → (∀ n, s.inputs.head? ≠ some (.taken n)) →
    ∃ added sent, t.calls = s.calls ++ added ∧ t.tx = s.tx ++ sent ∧ SendsReplies added sent

/-! ### Whole blocks (95_test_vectors.md T4, T5, T6) -/

/-- A block numbered `n` with payload `p` and the trailer for `q` waits, alone, at a core in `BlockStart`. -/
structure Sys2Proof.Machine.BlockWaits (s : State) (l : BlockLen) (n : Byte) (p q : List Byte) : Prop where
  inv : s.Inv
  atStart : s.regs.state = .blockStart
  fits : l.bytes ≤ s.regs.bufferCapacity.bytes
  length : p.length = l.bytes
  queued : s.rx = headerByte l :: n :: ~~~n ::
    (p ++ trailerOf s.regs.crcMode (payloadCheck s.regs.crcMode q))

/-- T4, R92, R177: the expected block, whole, is acknowledged and its first
`min(block_size, file_bytes_remaining)` payload bytes are written, once. -/
def Obligations.ValidBlockWrittenOnce : Prop :=
  ∀ (now : Time) (s : State) (l : BlockLen) (p : List Byte) (h : Handle) (k : Nat),
    BlockWaits s l s.regs.expectedBlockNumber p p → s.regs.openFile = some h → s.writeReply = true →
    k = min l.bytes s.regs.fileBytesRemaining.toNat →
    ∃ t, exec (.poll now) s = .next t ∧ t.rx = [] ∧ t.tx = s.tx ++ [0x06#8] ∧
      t.storageCalls = s.storageCalls ++ (if k = 0 then [] else [.stWrite h (p.take k) true]) ∧
      t.regs.expectedBlockNumber.toNat = (s.regs.expectedBlockNumber.toNat + 1) % 256 ∧
      t.regs.fileBytesRemaining.toNat = s.regs.fileBytesRemaining.toNat - k ∧
      t.regs.state = .blockStart ∧ t.regs.pendingReply = .ack ∧
      t.regs.deadline = now + Config.tLong ∧ t.regs.openFile = some h ∧
      t.regs.currentFilename = s.regs.currentFilename ∧ t.regs.fnameLen = s.regs.fnameLen

/-- T5, R179 (decision D34): the block before the expected one is acknowledged again and not written (in
batch mode, unless it is numbered 0). -/
def Obligations.RepeatedBlockNotWritten : Prop :=
  ∀ (now : Time) (s : State) (l : BlockLen) (n : Byte) (p : List Byte),
    BlockWaits s l n p p → (n.toNat + 1) % 256 = s.regs.expectedBlockNumber.toNat →
    (s.regs.batchMode = true → n ≠ 0#8) →
    ∃ t, exec (.poll now) s = .next t ∧ t.rx = [] ∧ t.tx = s.tx ++ [0x06#8] ∧
      t.storageCalls = s.storageCalls ∧
      t.regs.expectedBlockNumber = s.regs.expectedBlockNumber ∧
      t.regs.fileBytesRemaining = s.regs.fileBytesRemaining ∧
      t.regs.state = .blockStart ∧ t.regs.openFile = s.regs.openFile

/-- T6, R274: the expected block, or the one before it, with one payload byte changed is answered by NAK
at once, with no storage call and no advance (for CRC blocks log entry 21, the condition of the CRC's
XOR). -/
def Obligations.CorruptBlockRefused : Prop :=
  ∀ (now : Time) (s : State) (l : BlockLen) (n : Byte) (pre post : List Byte) (b b' : Byte),
    BlockWaits s l n (pre ++ b' :: post) (pre ++ b :: post) → b ≠ b' →
    n = s.regs.expectedBlockNumber ∨ (n.toNat + 1) % 256 = s.regs.expectedBlockNumber.toNat →
    ∃ t, exec (.poll now) s = .next t ∧ t.rx = [] ∧ t.tx = s.tx ++ [0x15#8] ∧
      t.storageCalls = s.storageCalls ∧
      t.regs.expectedBlockNumber = s.regs.expectedBlockNumber ∧
      t.regs.fileBytesRemaining = s.regs.fileBytesRemaining ∧
      t.regs.state = .blockStart ∧ t.regs.pendingReply = .nak ∧ t.regs.openFile = s.regs.openFile
end

