-- ==== Sys2Proof/Laws/Decode.lean ====
section
/-! SUPPORT. Numbers as bytes, and the pieces of a host record. -/

namespace Sys2Proof

@[simp] theorem toBytes_length (n v : Nat) : (toBytes n v).length = n := by
  induction n generalizing v with
  | zero => rfl
  | succ n ih => simp [toBytes, ih]

/-- A number below `256 ^ n` survives being written as `n` bytes. -/
theorem ofBytes_toBytes (n v : Nat) (h : v < 256 ^ n) : ofBytes (toBytes n v) = v := by
  induction n generalizing v with
  | zero => simp at h; simp [toBytes, ofBytes, h]
  | succ n ih =>
    have hd : v / 256 < 256 ^ n := by
      rw [Nat.div_lt_iff_lt_mul (by norm_num)]
      rwa [pow_succ] at h
    simp only [toBytes, ofBytes, ih _ hd, BitVec.toNat_ofNat]
    omega

/-- A field of the right length is taken off whole. -/
theorem takeBytes_append (xs rest : List Byte) : takeBytes xs.length (xs ++ rest) = some (xs, rest) := by
  induction xs with
  | nil => rfl
  | cons x xs ih => simp [takeBytes, ih]

theorem takeBytes_toBytes (n v : Nat) (rest : List Byte) :
    takeBytes n (toBytes n v ++ rest) = some (toBytes n v, rest) := by
  have := takeBytes_append (toBytes n v) rest
  simpa using this

/-- The flag byte gives its three bits back, and its high bits are 0. -/
theorem flagByte_bits (crc batch cap1k : Bool) :
    (flagByte crc batch cap1k).getLsbD 0 = crc ∧ (flagByte crc batch cap1k).getLsbD 1 = batch ∧
      (flagByte crc batch cap1k).getLsbD 2 = cap1k ∧ (flagByte crc batch cap1k).toNat < 8 := by
  revert crc batch cap1k; decide

end Sys2Proof
end

