-- ==== Sys2Proof/Laws/State.lean ====
section
/-! SUPPORT. The state after each single update, field by field, so that no proof unfolds an update. -/

namespace Sys2Proof.Machine

variable (s : State)

/-! `goto` -/

@[simp] theorem goto_regs (st : FsmState) : (goto st s).regs = { s.regs with state := st } := rfl
@[simp] theorem goto_rx (st : FsmState) : (goto st s).rx = s.rx := rfl
@[simp] theorem goto_tx (st : FsmState) : (goto st s).tx = s.tx := rfl
@[simp] theorem goto_calls (st : FsmState) : (goto st s).calls = s.calls := rfl
@[simp] theorem goto_result (st : FsmState) : (goto st s).result = s.result := rfl
@[simp] theorem goto_openScript (st : FsmState) : (goto st s).openScript = s.openScript := rfl
@[simp] theorem goto_writeScript (st : FsmState) : (goto st s).writeScript = s.writeScript := rfl
@[simp] theorem goto_draws (st : FsmState) : (goto st s).draws = s.draws := rfl
@[simp] theorem goto_inputs (st : FsmState) : (goto st s).inputs = s.inputs := rfl
@[simp] theorem goto_lastNow (st : FsmState) : (goto st s).lastNow = s.lastNow := rfl

/-! `setDeadline` -/

@[simp] theorem setDeadline_regs (t : Time) : (setDeadline t s).regs = { s.regs with deadline := t } := rfl
@[simp] theorem setDeadline_rx (t : Time) : (setDeadline t s).rx = s.rx := rfl
@[simp] theorem setDeadline_tx (t : Time) : (setDeadline t s).tx = s.tx := rfl
@[simp] theorem setDeadline_calls (t : Time) : (setDeadline t s).calls = s.calls := rfl
@[simp] theorem setDeadline_result (t : Time) : (setDeadline t s).result = s.result := rfl
@[simp] theorem setDeadline_openScript (t : Time) : (setDeadline t s).openScript = s.openScript := rfl
@[simp] theorem setDeadline_writeScript (t : Time) : (setDeadline t s).writeScript = s.writeScript := rfl
@[simp] theorem setDeadline_draws (t : Time) : (setDeadline t s).draws = s.draws := rfl
@[simp] theorem setDeadline_inputs (t : Time) : (setDeadline t s).inputs = s.inputs := rfl
@[simp] theorem setDeadline_lastNow (t : Time) : (setDeadline t s).lastNow = s.lastNow := rfl

/-! `setAcc` -/

@[simp] theorem setAcc_regs (v : BitVec 16) : (setAcc v s).regs = { s.regs with acc := v } := rfl
@[simp] theorem setAcc_rx (v : BitVec 16) : (setAcc v s).rx = s.rx := rfl
@[simp] theorem setAcc_tx (v : BitVec 16) : (setAcc v s).tx = s.tx := rfl
@[simp] theorem setAcc_calls (v : BitVec 16) : (setAcc v s).calls = s.calls := rfl
@[simp] theorem setAcc_result (v : BitVec 16) : (setAcc v s).result = s.result := rfl
@[simp] theorem setAcc_openScript (v : BitVec 16) : (setAcc v s).openScript = s.openScript := rfl
@[simp] theorem setAcc_writeScript (v : BitVec 16) : (setAcc v s).writeScript = s.writeScript := rfl
@[simp] theorem setAcc_draws (v : BitVec 16) : (setAcc v s).draws = s.draws := rfl
@[simp] theorem setAcc_inputs (v : BitVec 16) : (setAcc v s).inputs = s.inputs := rfl
@[simp] theorem setAcc_lastNow (v : BitVec 16) : (setAcc v s).lastNow = s.lastNow := rfl

/-! `setReply` -/

@[simp] theorem setReply_regs (r : Reply) : (setReply r s).regs = { s.regs with pendingReply := r } := rfl
@[simp] theorem setReply_rx (r : Reply) : (setReply r s).rx = s.rx := rfl
@[simp] theorem setReply_tx (r : Reply) : (setReply r s).tx = s.tx := rfl
@[simp] theorem setReply_calls (r : Reply) : (setReply r s).calls = s.calls := rfl
@[simp] theorem setReply_result (r : Reply) : (setReply r s).result = s.result := rfl
@[simp] theorem setReply_openScript (r : Reply) : (setReply r s).openScript = s.openScript := rfl
@[simp] theorem setReply_writeScript (r : Reply) : (setReply r s).writeScript = s.writeScript := rfl
@[simp] theorem setReply_draws (r : Reply) : (setReply r s).draws = s.draws := rfl
@[simp] theorem setReply_inputs (r : Reply) : (setReply r s).inputs = s.inputs := rfl
@[simp] theorem setReply_lastNow (r : Reply) : (setReply r s).lastNow = s.lastNow := rfl

/-! `setCompleted` -/

@[simp] theorem setCompleted_regs (v : Bool) : (setCompleted v s).regs = { s.regs with fileCompleted := v } := rfl
@[simp] theorem setCompleted_rx (v : Bool) : (setCompleted v s).rx = s.rx := rfl
@[simp] theorem setCompleted_tx (v : Bool) : (setCompleted v s).tx = s.tx := rfl
@[simp] theorem setCompleted_calls (v : Bool) : (setCompleted v s).calls = s.calls := rfl
@[simp] theorem setCompleted_result (v : Bool) : (setCompleted v s).result = s.result := rfl
@[simp] theorem setCompleted_openScript (v : Bool) : (setCompleted v s).openScript = s.openScript := rfl
@[simp] theorem setCompleted_writeScript (v : Bool) : (setCompleted v s).writeScript = s.writeScript := rfl
@[simp] theorem setCompleted_draws (v : Bool) : (setCompleted v s).draws = s.draws := rfl
@[simp] theorem setCompleted_inputs (v : Bool) : (setCompleted v s).inputs = s.inputs := rfl
@[simp] theorem setCompleted_lastNow (v : Bool) : (setCompleted v s).lastNow = s.lastNow := rfl

/-! `setStorageError` -/

@[simp] theorem setStorageError_regs (v : Bool) : (setStorageError v s).regs = { s.regs with storageError := v } := rfl
@[simp] theorem setStorageError_rx (v : Bool) : (setStorageError v s).rx = s.rx := rfl
@[simp] theorem setStorageError_tx (v : Bool) : (setStorageError v s).tx = s.tx := rfl
@[simp] theorem setStorageError_calls (v : Bool) : (setStorageError v s).calls = s.calls := rfl
@[simp] theorem setStorageError_result (v : Bool) : (setStorageError v s).result = s.result := rfl
@[simp] theorem setStorageError_openScript (v : Bool) : (setStorageError v s).openScript = s.openScript := rfl
@[simp] theorem setStorageError_writeScript (v : Bool) : (setStorageError v s).writeScript = s.writeScript := rfl
@[simp] theorem setStorageError_draws (v : Bool) : (setStorageError v s).draws = s.draws := rfl
@[simp] theorem setStorageError_inputs (v : Bool) : (setStorageError v s).inputs = s.inputs := rfl
@[simp] theorem setStorageError_lastNow (v : Bool) : (setStorageError v s).lastNow = s.lastNow := rfl

/-! `setBlockSize` -/

@[simp] theorem setBlockSize_regs (n : BlockLen) : (setBlockSize n s).regs = { s.regs with blockSize := n } := rfl
@[simp] theorem setBlockSize_rx (n : BlockLen) : (setBlockSize n s).rx = s.rx := rfl
@[simp] theorem setBlockSize_tx (n : BlockLen) : (setBlockSize n s).tx = s.tx := rfl
@[simp] theorem setBlockSize_calls (n : BlockLen) : (setBlockSize n s).calls = s.calls := rfl
@[simp] theorem setBlockSize_result (n : BlockLen) : (setBlockSize n s).result = s.result := rfl
@[simp] theorem setBlockSize_openScript (n : BlockLen) : (setBlockSize n s).openScript = s.openScript := rfl
@[simp] theorem setBlockSize_writeScript (n : BlockLen) : (setBlockSize n s).writeScript = s.writeScript := rfl
@[simp] theorem setBlockSize_draws (n : BlockLen) : (setBlockSize n s).draws = s.draws := rfl
@[simp] theorem setBlockSize_inputs (n : BlockLen) : (setBlockSize n s).inputs = s.inputs := rfl
@[simp] theorem setBlockSize_lastNow (n : BlockLen) : (setBlockSize n s).lastNow = s.lastNow := rfl

/-! `setExpected` -/

@[simp] theorem setExpected_regs (n : Byte) : (setExpected n s).regs = { s.regs with expectedBlockNumber := n } := rfl
@[simp] theorem setExpected_rx (n : Byte) : (setExpected n s).rx = s.rx := rfl
@[simp] theorem setExpected_tx (n : Byte) : (setExpected n s).tx = s.tx := rfl
@[simp] theorem setExpected_calls (n : Byte) : (setExpected n s).calls = s.calls := rfl
@[simp] theorem setExpected_result (n : Byte) : (setExpected n s).result = s.result := rfl
@[simp] theorem setExpected_openScript (n : Byte) : (setExpected n s).openScript = s.openScript := rfl
@[simp] theorem setExpected_writeScript (n : Byte) : (setExpected n s).writeScript = s.writeScript := rfl
@[simp] theorem setExpected_draws (n : Byte) : (setExpected n s).draws = s.draws := rfl
@[simp] theorem setExpected_inputs (n : Byte) : (setExpected n s).inputs = s.inputs := rfl
@[simp] theorem setExpected_lastNow (n : Byte) : (setExpected n s).lastNow = s.lastNow := rfl

/-! `setName` -/

@[simp] theorem setName_regs (n : List Byte) : (setName n s).regs = { s.regs with
    currentFilename := storeName n s.regs.currentFilename, fnameLen := BitVec.ofNat 7 n.length } := rfl
@[simp] theorem setName_rx (n : List Byte) : (setName n s).rx = s.rx := rfl
@[simp] theorem setName_tx (n : List Byte) : (setName n s).tx = s.tx := rfl
@[simp] theorem setName_calls (n : List Byte) : (setName n s).calls = s.calls := rfl
@[simp] theorem setName_result (n : List Byte) : (setName n s).result = s.result := rfl
@[simp] theorem setName_openScript (n : List Byte) : (setName n s).openScript = s.openScript := rfl
@[simp] theorem setName_writeScript (n : List Byte) : (setName n s).writeScript = s.writeScript := rfl
@[simp] theorem setName_draws (n : List Byte) : (setName n s).draws = s.draws := rfl
@[simp] theorem setName_inputs (n : List Byte) : (setName n s).inputs = s.inputs := rfl
@[simp] theorem setName_lastNow (n : List Byte) : (setName n s).lastNow = s.lastNow := rfl

/-! `clearName` -/

@[simp] theorem clearName_regs : (clearName s).regs = { s.regs with fnameLen := 0 } := rfl
@[simp] theorem clearName_rx : (clearName s).rx = s.rx := rfl
@[simp] theorem clearName_tx : (clearName s).tx = s.tx := rfl
@[simp] theorem clearName_calls : (clearName s).calls = s.calls := rfl
@[simp] theorem clearName_result : (clearName s).result = s.result := rfl
@[simp] theorem clearName_openScript : (clearName s).openScript = s.openScript := rfl
@[simp] theorem clearName_writeScript : (clearName s).writeScript = s.writeScript := rfl
@[simp] theorem clearName_draws : (clearName s).draws = s.draws := rfl
@[simp] theorem clearName_inputs : (clearName s).inputs = s.inputs := rfl
@[simp] theorem clearName_lastNow : (clearName s).lastNow = s.lastNow := rfl

/-! `setFileBytes` -/

@[simp] theorem setFileBytes_regs (n : BitVec 32) : (setFileBytes n s).regs = { s.regs with fileBytesRemaining := n } := rfl
@[simp] theorem setFileBytes_rx (n : BitVec 32) : (setFileBytes n s).rx = s.rx := rfl
@[simp] theorem setFileBytes_tx (n : BitVec 32) : (setFileBytes n s).tx = s.tx := rfl
@[simp] theorem setFileBytes_calls (n : BitVec 32) : (setFileBytes n s).calls = s.calls := rfl
@[simp] theorem setFileBytes_result (n : BitVec 32) : (setFileBytes n s).result = s.result := rfl
@[simp] theorem setFileBytes_openScript (n : BitVec 32) : (setFileBytes n s).openScript = s.openScript := rfl
@[simp] theorem setFileBytes_writeScript (n : BitVec 32) : (setFileBytes n s).writeScript = s.writeScript := rfl
@[simp] theorem setFileBytes_draws (n : BitVec 32) : (setFileBytes n s).draws = s.draws := rfl
@[simp] theorem setFileBytes_inputs (n : BitVec 32) : (setFileBytes n s).inputs = s.inputs := rfl
@[simp] theorem setFileBytes_lastNow (n : BitVec 32) : (setFileBytes n s).lastNow = s.lastNow := rfl

/-! `memWrite` -/

@[simp] theorem memWrite_regs (a : Nat) (b : Byte) : (memWrite a b s).regs = { s.regs with receiveBuffer := Memory.write s.regs.receiveBuffer a b } := rfl
@[simp] theorem memWrite_rx (a : Nat) (b : Byte) : (memWrite a b s).rx = s.rx := rfl
@[simp] theorem memWrite_tx (a : Nat) (b : Byte) : (memWrite a b s).tx = s.tx := rfl
@[simp] theorem memWrite_calls (a : Nat) (b : Byte) : (memWrite a b s).calls = s.calls := rfl
@[simp] theorem memWrite_result (a : Nat) (b : Byte) : (memWrite a b s).result = s.result := rfl
@[simp] theorem memWrite_openScript (a : Nat) (b : Byte) : (memWrite a b s).openScript = s.openScript := rfl
@[simp] theorem memWrite_writeScript (a : Nat) (b : Byte) : (memWrite a b s).writeScript = s.writeScript := rfl
@[simp] theorem memWrite_draws (a : Nat) (b : Byte) : (memWrite a b s).draws = s.draws := rfl
@[simp] theorem memWrite_inputs (a : Nat) (b : Byte) : (memWrite a b s).inputs = s.inputs := rfl
@[simp] theorem memWrite_lastNow (a : Nat) (b : Byte) : (memWrite a b s).lastNow = s.lastNow := rfl

/-! `preamble` -/

@[simp] theorem preamble_regs (now : Time) : (preamble now s).regs = { s.regs with deadline := now + Config.tShort } := rfl
@[simp] theorem preamble_rx (now : Time) : (preamble now s).rx = s.rx := rfl
@[simp] theorem preamble_tx (now : Time) : (preamble now s).tx = s.tx := rfl
@[simp] theorem preamble_calls (now : Time) : (preamble now s).calls = s.calls := rfl
@[simp] theorem preamble_result (now : Time) : (preamble now s).result = s.result := rfl
@[simp] theorem preamble_openScript (now : Time) : (preamble now s).openScript = s.openScript := rfl
@[simp] theorem preamble_writeScript (now : Time) : (preamble now s).writeScript = s.writeScript := rfl
@[simp] theorem preamble_draws (now : Time) : (preamble now s).draws = s.draws := rfl
@[simp] theorem preamble_inputs (now : Time) : (preamble now s).inputs = s.inputs := rfl
@[simp] theorem preamble_lastNow (now : Time) : (preamble now s).lastNow = s.lastNow := rfl

/-! `answer` -/

@[simp] theorem answer_regs (r : Result) : (answer r s).regs = s.regs := rfl
@[simp] theorem answer_rx (r : Result) : (answer r s).rx = s.rx := rfl
@[simp] theorem answer_tx (r : Result) : (answer r s).tx = s.tx := rfl
@[simp] theorem answer_calls (r : Result) : (answer r s).calls = s.calls := rfl
@[simp] theorem answer_result (r : Result) : (answer r s).result = r := rfl
@[simp] theorem answer_openScript (r : Result) : (answer r s).openScript = s.openScript := rfl
@[simp] theorem answer_writeScript (r : Result) : (answer r s).writeScript = s.writeScript := rfl
@[simp] theorem answer_draws (r : Result) : (answer r s).draws = s.draws := rfl
@[simp] theorem answer_inputs (r : Result) : (answer r s).inputs = s.inputs := rfl
@[simp] theorem answer_lastNow (r : Result) : (answer r s).lastNow = s.lastNow := rfl

/-! `sendByte` -/

@[simp] theorem sendByte_regs (b : Byte) : (sendByte b s).regs = s.regs := rfl
@[simp] theorem sendByte_rx (b : Byte) : (sendByte b s).rx = s.rx := rfl
@[simp] theorem sendByte_tx (b : Byte) : (sendByte b s).tx = s.tx ++ [b] := rfl
@[simp] theorem sendByte_calls (b : Byte) : (sendByte b s).calls = s.calls ++ [.txWrite b, .txFlush] := rfl
@[simp] theorem sendByte_result (b : Byte) : (sendByte b s).result = s.result := rfl
@[simp] theorem sendByte_openScript (b : Byte) : (sendByte b s).openScript = s.openScript := rfl
@[simp] theorem sendByte_writeScript (b : Byte) : (sendByte b s).writeScript = s.writeScript := rfl
@[simp] theorem sendByte_draws (b : Byte) : (sendByte b s).draws = s.draws := rfl
@[simp] theorem sendByte_inputs (b : Byte) : (sendByte b s).inputs = s.inputs := rfl
@[simp] theorem sendByte_lastNow (b : Byte) : (sendByte b s).lastNow = s.lastNow := rfl

/-! `takeByte` -/

@[simp] theorem takeByte_regs (b : Byte) (rest : List Byte) : (takeByte b rest s).regs = s.regs := rfl
@[simp] theorem takeByte_rx (b : Byte) (rest : List Byte) : (takeByte b rest s).rx = rest := rfl
@[simp] theorem takeByte_tx (b : Byte) (rest : List Byte) : (takeByte b rest s).tx = s.tx := rfl
@[simp] theorem takeByte_calls (b : Byte) (rest : List Byte) : (takeByte b rest s).calls = s.calls ++ [.rxRead b] := rfl
@[simp] theorem takeByte_result (b : Byte) (rest : List Byte) : (takeByte b rest s).result = s.result := rfl
@[simp] theorem takeByte_openScript (b : Byte) (rest : List Byte) : (takeByte b rest s).openScript = s.openScript := rfl
@[simp] theorem takeByte_writeScript (b : Byte) (rest : List Byte) : (takeByte b rest s).writeScript = s.writeScript := rfl
@[simp] theorem takeByte_draws (b : Byte) (rest : List Byte) : (takeByte b rest s).draws = s.draws := rfl
@[simp] theorem takeByte_inputs (b : Byte) (rest : List Byte) : (takeByte b rest s).inputs = s.inputs := rfl
@[simp] theorem takeByte_lastNow (b : Byte) (rest : List Byte) : (takeByte b rest s).lastNow = s.lastNow := rfl

/-! `emitReply` -/

@[simp] theorem emitReply_regs (r : Reply) : (emitReply r s).regs = { s.regs with pendingReply := r } := rfl
@[simp] theorem emitReply_rx (r : Reply) : (emitReply r s).rx = s.rx := rfl
@[simp] theorem emitReply_tx (r : Reply) : (emitReply r s).tx = s.tx ++ [r.byte] := rfl
@[simp] theorem emitReply_calls (r : Reply) : (emitReply r s).calls = s.calls ++ [.txWrite r.byte, .txFlush] := rfl
@[simp] theorem emitReply_result (r : Reply) : (emitReply r s).result = s.result := rfl
@[simp] theorem emitReply_openScript (r : Reply) : (emitReply r s).openScript = s.openScript := rfl
@[simp] theorem emitReply_writeScript (r : Reply) : (emitReply r s).writeScript = s.writeScript := rfl
@[simp] theorem emitReply_draws (r : Reply) : (emitReply r s).draws = s.draws := rfl
@[simp] theorem emitReply_inputs (r : Reply) : (emitReply r s).inputs = s.inputs := rfl
@[simp] theorem emitReply_lastNow (r : Reply) : (emitReply r s).lastNow = s.lastNow := rfl

/-! `State.call` -/

@[simp] theorem call_regs (c : Call) : (s.call c).regs = s.regs := rfl
@[simp] theorem call_rx (c : Call) : (s.call c).rx = s.rx := rfl
@[simp] theorem call_tx (c : Call) : (s.call c).tx = s.tx := rfl
@[simp] theorem call_calls (c : Call) : (s.call c).calls = s.calls ++ [c] := rfl
@[simp] theorem call_result (c : Call) : (s.call c).result = s.result := rfl
@[simp] theorem call_openScript (c : Call) : (s.call c).openScript = s.openScript := rfl
@[simp] theorem call_writeScript (c : Call) : (s.call c).writeScript = s.writeScript := rfl
@[simp] theorem call_draws (c : Call) : (s.call c).draws = s.draws := rfl
@[simp] theorem call_inputs (c : Call) : (s.call c).inputs = s.inputs := rfl
@[simp] theorem call_lastNow (c : Call) : (s.call c).lastNow = s.lastNow := rfl

/-! Drawing a storage answer leaves the registers, the queue and the record of calls alone. -/

@[simp] theorem openDrawn_regs : s.openDrawn.regs = s.regs := by unfold State.openDrawn; split <;> rfl
@[simp] theorem openDrawn_rx : s.openDrawn.rx = s.rx := by unfold State.openDrawn; split <;> rfl
@[simp] theorem openDrawn_tx : s.openDrawn.tx = s.tx := by unfold State.openDrawn; split <;> rfl
@[simp] theorem openDrawn_calls : s.openDrawn.calls = s.calls := by unfold State.openDrawn; split <;> rfl
@[simp] theorem openDrawn_result : s.openDrawn.result = s.result := by
  unfold State.openDrawn; split <;> rfl
@[simp] theorem openDrawn_inputs : s.openDrawn.inputs = s.inputs := by
  unfold State.openDrawn; split <;> rfl
@[simp] theorem openDrawn_lastNow : s.openDrawn.lastNow = s.lastNow := by
  unfold State.openDrawn; split <;> rfl
@[simp] theorem openDrawn_writeScript : s.openDrawn.writeScript = s.writeScript := by
  unfold State.openDrawn; split <;> rfl
@[simp] theorem writeDrawn_regs : s.writeDrawn.regs = s.regs := by unfold State.writeDrawn; split <;> rfl
@[simp] theorem writeDrawn_rx : s.writeDrawn.rx = s.rx := by unfold State.writeDrawn; split <;> rfl
@[simp] theorem writeDrawn_tx : s.writeDrawn.tx = s.tx := by unfold State.writeDrawn; split <;> rfl
@[simp] theorem writeDrawn_calls : s.writeDrawn.calls = s.calls := by
  unfold State.writeDrawn; split <;> rfl
@[simp] theorem writeDrawn_result : s.writeDrawn.result = s.result := by
  unfold State.writeDrawn; split <;> rfl
@[simp] theorem writeDrawn_inputs : s.writeDrawn.inputs = s.inputs := by
  unfold State.writeDrawn; split <;> rfl
@[simp] theorem writeDrawn_lastNow : s.writeDrawn.lastNow = s.lastNow := by
  unfold State.writeDrawn; split <;> rfl
@[simp] theorem writeDrawn_openScript : s.writeDrawn.openScript = s.openScript := by
  unfold State.writeDrawn; split <;> rfl

/-! What an answer is drawn from: an update of anything else leaves it. -/

theorem openReply_of_eq {s t : State} (h : t.openScript = s.openScript) (d : t.draws = s.draws) :
    t.openReply = s.openReply := by unfold State.openReply; rw [h, d]

theorem writeReply_of_eq {s t : State} (h : t.writeScript = s.writeScript) (d : t.draws = s.draws) :
    t.writeReply = s.writeReply := by unfold State.writeReply; rw [h, d]

end Sys2Proof.Machine
end

