-- ==== Sys2Proof/Laws/Memory.lean ====
section
/-! SUPPORT. The receive buffer: reading after a write, and the canonical form that every write keeps. -/

namespace Sys2Proof.Machine

namespace Memory

theorem read_cons_self (a : Nat) (b : Byte) (m : Memory) (h : ∀ c ∈ m, a < c.1) :
    read (cons a b m) a = b := by
  unfold cons
  split
  · next hb =>
    subst hb
    induction m with
    | nil => rfl
    | cons c m ih =>
      have hc : a < c.1 := h c (by simp)
      have : ¬ c.1 = a := by omega
      simpa [read, this] using ih fun d hd => h d (by simp [hd])
  · simp [read]

theorem read_cons_ne {a a' : Nat} (b : Byte) (m : Memory) (h : a' ≠ a) :
    read (cons a b m) a' = read m a' := by
  unfold cons
  split
  · rfl
  · simp [read, Ne.symm h]

/-- Reading an index below every listed one. -/
theorem read_of_below (m : Memory) (a : Nat) (h : ∀ c ∈ m, a < c.1) : read m a = unlisted := by
  induction m with
  | nil => rfl
  | cons c m ih =>
    have hc : a < c.1 := h c (by simp)
    have : ¬ c.1 = a := by omega
    simpa [read, this] using ih fun d hd => h d (by simp [hd])

/-- A read of the index just written gives the byte written. -/
theorem read_write_self {m : Memory} (h : wf m) (a : Nat) (b : Byte) : read (write m a b) a = b := by
  induction m with
  | nil => exact read_cons_self a b [] (by simp)
  | cons c m ih =>
    obtain ⟨k, v⟩ := c
    have hp := List.pairwise_cons.1 h.1
    simp only [write]
    split
    · exact read_cons_self a b _ fun d hd => by
        rcases List.mem_cons.1 hd with rfl | hd
        · assumption
        · have := hp.1 d hd; simp at this; omega
    · split
      · next hk => subst hk; exact read_cons_self a b m fun d hd => hp.1 d hd
      · next h1 h2 =>
        have : ¬ k = a := fun e => h2 e.symm
        simp only [read, this, if_false]
        exact ih ⟨hp.2, fun d hd => h.2 d (by simp [hd])⟩

/-- A read of another index gives what it gave before, whatever the memory. -/
theorem read_write_ne (m : Memory) {a a' : Nat} (b : Byte) (h : a' ≠ a) :
    read (write m a b) a' = read m a' := by
  induction m with
  | nil => exact read_cons_ne b [] h
  | cons c m ih =>
    obtain ⟨k, v⟩ := c
    simp only [write]
    split
    · exact read_cons_ne b _ h
    · split
      · next hk => subst hk; rw [read_cons_ne b m h]; simp [read, Ne.symm h]
      · simp only [read, ih]

/-- The entries of a written memory are the old ones or the new one. -/
theorem mem_write {m : Memory} {a : Nat} {b : Byte} {c : Host.Cell} (h : c ∈ write m a b) :
    c ∈ m ∨ (c = (a, b) ∧ b ≠ unlisted) := by
  have key : ∀ n : Memory, c ∈ cons a b n → c ∈ n ∨ (c = (a, b) ∧ b ≠ unlisted) := by
    intro n hn
    unfold cons at hn
    split at hn
    · exact .inl hn
    · rcases List.mem_cons.1 hn with rfl | hn
      · exact .inr ⟨rfl, by assumption⟩
      · exact .inl hn
  induction m with
  | nil => exact key [] h
  | cons d m ih =>
    obtain ⟨k, v⟩ := d
    simp only [write] at h
    split at h
    · exact key _ h
    · split at h
      · rcases key _ h with h | h
        · exact .inl (by simp [h])
        · exact .inr h
      · rcases List.mem_cons.1 h with rfl | h
        · exact .inl (by simp)
        · rcases ih h with h | h
          · exact .inl (by simp [h])
          · exact .inr h

theorem pairwise_cons_of {a : Nat} {b : Byte} {m : Memory} (h : m.Pairwise fun x y => x.1 < y.1)
    (hb : ∀ c ∈ m, a < c.1) : (cons a b m).Pairwise fun x y => x.1 < y.1 := by
  unfold cons
  split
  · exact h
  · exact List.pairwise_cons.2 ⟨hb, h⟩

/-- Every write keeps the canonical form. -/
theorem write_wf {m : Memory} (h : wf m) (a : Nat) (b : Byte) : wf (write m a b) := by
  refine ⟨?_, fun c hc => ?_⟩
  · induction m with
    | nil => exact pairwise_cons_of .nil (by simp)
    | cons d m ih =>
      obtain ⟨k, v⟩ := d
      have hp := List.pairwise_cons.1 h.1
      have hm : wf m := ⟨hp.2, fun c hc => h.2 c (by simp [hc])⟩
      simp only [write]
      split
      · exact pairwise_cons_of h.1 fun c hc => by
          rcases List.mem_cons.1 hc with rfl | hc
          · assumption
          · have := hp.1 c hc; simp at this; omega
      · split
        · next hk => subst hk; exact pairwise_cons_of hp.2 hp.1
        · refine List.pairwise_cons.2 ⟨fun c hc => ?_, ih hm⟩
          rcases mem_write hc with hc | ⟨rfl, -⟩
          · exact hp.1 c hc
          · simp; omega
  · rcases mem_write hc with hc | ⟨rfl, hb⟩
    · exact h.2 c hc
    · exact hb

/-- A write inside the physical buffer keeps every entry inside it. -/
theorem write_inRange {m : Memory} (h : inRange m) {a : Nat} (ha : a < Config.bufPhys) (b : Byte) :
    inRange (write m a b) := fun c hc => by
  rcases mem_write hc with hc | ⟨rfl, -⟩
  · exact h c hc
  · exact ha

end Memory

/-- Reset memory is in canonical form. -/
theorem reset_buffer_wf : Memory.wf State.reset.regs.receiveBuffer := by decide

/-! `memRead` -/

@[simp] theorem memRead_length (a n : Nat) (s : State) : (memRead a n s).length = n := by simp [memRead]

theorem memRead_getElem (a n i : Nat) (s : State) (h : i < (memRead a n s).length) :
    (memRead a n s)[i] = s.readByte (a + i) := by simp [memRead]

/-- A read of the buffer depends on nothing but the buffer. -/
theorem memRead_of_buffer {s t : State} (h : t.regs.receiveBuffer = s.regs.receiveBuffer) (a n : Nat) :
    memRead a n t = memRead a n s := by simp [memRead, State.readByte, h]

/-- `MemRead` one byte longer. -/
theorem memRead_succ (n : Nat) (s : State) : memRead 0 (n + 1) s = memRead 0 n s ++ [s.readByte n] := by
  simp [memRead, List.range_succ]

/-- `MemRead` of the bytes below the index just written is as before. -/
theorem memRead_write_below (n a : Nat) (b : Byte) (s : State) (h : n ≤ a) :
    memRead 0 n (memWrite a b s) = memRead 0 n s := by
  apply List.map_congr_left
  intro i hi
  have : i < n := List.mem_range.1 hi
  exact Memory.read_write_ne _ b (by omega)

end Sys2Proof.Machine
end

