-- ==== Sys2Proof/Laws/Ops.lean ====
section
/-! SUPPORT. One spec lemma per shared operation: what closing and opening a file, entering `Idle`, the
timeout step and taking a fault do, in registers and calls. -/

namespace Sys2Proof.Machine

variable (s : State)

/-! ### Closing a file and entering `Idle` -/

@[simp] theorem closeFile_regs : (closeFile s).regs = { s.regs with openFile := none } := by
  unfold closeFile
  split
  · next h => rw [← h]
  · rfl

@[simp] theorem closeFile_calls : (closeFile s).calls = s.calls ++ closeCalls s.regs.openFile := by
  unfold closeFile closeCalls
  split <;> simp_all

@[simp] theorem closeFile_rx : (closeFile s).rx = s.rx := by unfold closeFile; split <;> rfl
@[simp] theorem closeFile_tx : (closeFile s).tx = s.tx := by unfold closeFile; split <;> rfl
@[simp] theorem closeFile_result : (closeFile s).result = s.result := by unfold closeFile; split <;> rfl
@[simp] theorem closeFile_openScript : (closeFile s).openScript = s.openScript := by unfold closeFile; split <;> rfl
@[simp] theorem closeFile_writeScript : (closeFile s).writeScript = s.writeScript := by unfold closeFile; split <;> rfl
@[simp] theorem closeFile_draws : (closeFile s).draws = s.draws := by unfold closeFile; split <;> rfl
@[simp] theorem closeFile_inputs : (closeFile s).inputs = s.inputs := by unfold closeFile; split <;> rfl
@[simp] theorem closeFile_lastNow : (closeFile s).lastNow = s.lastNow := by unfold closeFile; split <;> rfl

@[simp] theorem enterIdle_regs :
    (enterIdle s).regs = { s.regs with openFile := none, state := .idle } := by simp [enterIdle]
@[simp] theorem enterIdle_calls : (enterIdle s).calls = s.calls ++ closeCalls s.regs.openFile := by
  simp [enterIdle]
@[simp] theorem enterIdle_rx : (enterIdle s).rx = s.rx := by simp [enterIdle]
@[simp] theorem enterIdle_tx : (enterIdle s).tx = s.tx := by simp [enterIdle]
@[simp] theorem enterIdle_result : (enterIdle s).result = s.result := by simp [enterIdle]
@[simp] theorem enterIdle_openScript : (enterIdle s).openScript = s.openScript := by simp [enterIdle]
@[simp] theorem enterIdle_writeScript : (enterIdle s).writeScript = s.writeScript := by simp [enterIdle]
@[simp] theorem enterIdle_draws : (enterIdle s).draws = s.draws := by simp [enterIdle]
@[simp] theorem enterIdle_inputs : (enterIdle s).inputs = s.inputs := by simp [enterIdle]
@[simp] theorem enterIdle_lastNow : (enterIdle s).lastNow = s.lastNow := by simp [enterIdle]

/-! ### Storage calls -/

@[simp] theorem storageOpen_regs (n : List Byte) : (storageOpen n s).regs = s.regs := by simp [storageOpen]
@[simp] theorem storageOpen_rx (n : List Byte) : (storageOpen n s).rx = s.rx := by simp [storageOpen]
@[simp] theorem storageOpen_tx (n : List Byte) : (storageOpen n s).tx = s.tx := by simp [storageOpen]
@[simp] theorem storageOpen_result (n : List Byte) : (storageOpen n s).result = s.result := by
  simp [storageOpen]
@[simp] theorem storageOpen_inputs (n : List Byte) : (storageOpen n s).inputs = s.inputs := by
  simp [storageOpen]
@[simp] theorem storageOpen_lastNow (n : List Byte) : (storageOpen n s).lastNow = s.lastNow := by
  simp [storageOpen]
@[simp] theorem storageOpen_calls (n : List Byte) :
    (storageOpen n s).calls = s.calls ++ [.stOpen n s.openReply] := by simp [storageOpen]

@[simp] theorem storageWrite_regs (h : Handle) (b : List Byte) : (storageWrite h b s).regs = s.regs := by
  simp [storageWrite]
@[simp] theorem storageWrite_rx (h : Handle) (b : List Byte) : (storageWrite h b s).rx = s.rx := by
  simp [storageWrite]
@[simp] theorem storageWrite_tx (h : Handle) (b : List Byte) : (storageWrite h b s).tx = s.tx := by simp [storageWrite]
@[simp] theorem storageWrite_result (h : Handle) (b : List Byte) :
    (storageWrite h b s).result = s.result := by simp [storageWrite]
@[simp] theorem storageWrite_inputs (h : Handle) (b : List Byte) :
    (storageWrite h b s).inputs = s.inputs := by simp [storageWrite]
@[simp] theorem storageWrite_lastNow (h : Handle) (b : List Byte) :
    (storageWrite h b s).lastNow = s.lastNow := by simp [storageWrite]
@[simp] theorem storageWrite_calls (h : Handle) (b : List Byte) :
    (storageWrite h b s).calls = s.calls ++ [.stWrite h b s.writeReply] := by simp [storageWrite]

/-! ### The name register -/

theorem boundName_length (n : List Byte) : (boundName n).length ≤ Config.fnameMax :=
  List.length_take_le _ _

theorem headerName_length (p : List Byte) : (headerName p).length ≤ Config.fnameMax := boundName_length _

/-- A name that fits leaves the register at its 64 bytes. -/
theorem storeName_length {n old : List Byte} (h : n.length ≤ old.length) :
    (storeName n old).length = old.length := by
  simp only [storeName, List.length_append, List.length_drop]; omega

/-- A length that fits is its seven bits. -/
theorem nameLen_toNat {n : List Byte} (h : n.length ≤ Config.fnameMax) :
    (BitVec.ofNat 7 n.length).toNat = n.length := by
  rw [BitVec.toNat_ofNat]
  exact Nat.mod_eq_of_lt (Nat.lt_of_le_of_lt h (by decide))

/-- The length of a stored name that is not empty is not 0. -/
theorem nameLen_ne_zero {n : List Byte} (h : n.length ≤ Config.fnameMax) (hn : n ≠ []) :
    BitVec.ofNat 7 n.length ≠ 0 := fun e =>
  hn (List.length_eq_zero_iff.1 ((nameLen_toNat h).symm.trans (congrArg BitVec.toNat e)))

/-- The first bytes of the register, as many as a stored name has, are that name. -/
theorem take_storeName {n old : List Byte} (h : n.length ≤ Config.fnameMax) :
    (storeName n old).take (BitVec.ofNat 7 n.length).toNat = n := by
  rw [nameLen_toNat h, storeName, List.take_left]

/-- A name that was stored is the name in use. -/
theorem fileName_setName {n : List Byte} (h : n.length ≤ Config.fnameMax) :
    (setName n s).regs.fileName = n := take_storeName h

/-- The answer FILE.OPEN gets is the environment's next one. -/
@[simp] theorem openCurrentReply_eq : openCurrentReply s = s.openReply :=
  openReply_of_eq (by simp) (by simp)

@[simp] theorem openCurrent_regs : (openCurrent s).regs = { s.regs with openFile := none } := by
  simp [openCurrent]
@[simp] theorem openCurrent_rx : (openCurrent s).rx = s.rx := by simp [openCurrent]
@[simp] theorem openCurrent_tx : (openCurrent s).tx = s.tx := by simp [openCurrent]
@[simp] theorem openCurrent_result : (openCurrent s).result = s.result := by simp [openCurrent]
@[simp] theorem openCurrent_inputs : (openCurrent s).inputs = s.inputs := by simp [openCurrent]
@[simp] theorem openCurrent_lastNow : (openCurrent s).lastNow = s.lastNow := by simp [openCurrent]

/-- FILE.OPEN's calls, in order: close if open, remove, open. -/
@[simp] theorem openCurrent_calls : (openCurrent s).calls = s.calls ++ (closeCalls s.regs.openFile ++
    [.stRemove s.regs.fileName, .stOpen s.regs.fileName s.openReply]) := by
  have : ((closeFile s).call (.stRemove s.regs.fileName)).openReply = s.openReply :=
    openCurrentReply_eq s
  simp [openCurrent, this]

/-! ### The timeout step and taking a fault -/

/-- What the timeout step does to the registers. -/
theorem timeoutStep_regs (now : Time) : (timeoutStep now s).regs =
    if s.regs.pendingReply = .can
    then { s.regs with openFile := none, state := .idle, pendingReply := .nak }
    else { s.regs with deadline := now + Config.tLong, state := .blockStart } := by
  unfold timeoutStep
  split <;> simp [timeoutAbort, timeoutRetry]

/-- The timeout step sends the pending reply first; an abort then closes the file. -/
theorem timeoutStep_calls (now : Time) : (timeoutStep now s).calls = s.calls ++
    ([.txWrite s.regs.pendingReply.byte, .txFlush] ++
      if s.regs.pendingReply = .can then closeCalls s.regs.openFile else []) := by
  unfold timeoutStep
  split <;> simp [timeoutAbort, timeoutRetry]

/-- The faults that purge (60_exceptions.md R285): the reply is only set, the state is `Purge`. -/
theorem raise_framing : raise .framing s =
    { s with regs := { s.regs with pendingReply := .nak, state := .purge } } := rfl

theorem raise_capacity : raise .capacity s =
    { s with regs := { s.regs with pendingReply := .nak, state := .purge } } := rfl

theorem raise_sequence : raise .sequence s =
    { s with regs := { s.regs with pendingReply := .can, state := .purge } } := rfl

theorem raise_storage : raise .storage s =
    { s with regs := { s.regs with storageError := true, pendingReply := .can, state := .purge } } := rfl

/-- The validation fault answers at once and does not purge. -/
theorem raise_validation : raise .validation s =
    { s with regs := { s.regs with pendingReply := .nak, state := .blockStart },
             calls := s.calls ++ [.txWrite 0x15#8, .txFlush], tx := s.tx ++ [0x15#8] } := rfl

theorem raise_timeout (now : Time) : raise (.timeout now) s = timeoutStep now s := rfl

/-! ### Step -/

/-- What a step can be: nothing, a command record, or one of the other agents' inputs. -/
theorem step_eq : step s = match s.inputs with
    | [] => .next s
    | i :: rest => runInput i { s with inputs := rest } := rfl

/-- What a host command of a step can be: its exec, with the time it carries noted, or a rejection. -/
theorem runCommand_cases (i : Instr) : (hostNow i = none ∧ runCommand i s = exec i s) ∨
    ∃ now, hostNow i = some now ∧
      ((inTime now s = true ∧ runCommand i s = exec i { s with lastNow := now }) ∨
       (s.regs.state ≠ .idle ∧ now < s.lastNow ∧ runCommand i s = .next (answer .rejected s))) := by
  unfold runCommand
  split
  · next h => exact .inl ⟨h, rfl⟩
  · next now h =>
    refine .inr ⟨now, h, ?_⟩
    split
    · next hi => exact .inl ⟨hi, rfl⟩
    · next hi => exact .inr (by simpa [inTime] using hi)

/-- A host command that went on: its exec went on, the noted time aside, or it was rejected. -/
theorem runCommand_next {i : Instr} {t : State} (h : runCommand i s = .next t) :
    (∃ now, exec i { s with lastNow := now } = .next t) ∨ t = answer .rejected s := by
  rcases runCommand_cases s i with ⟨_, e⟩ | ⟨now, _, ⟨_, e⟩ | ⟨_, _, e⟩⟩ <;> rw [e] at h
  · exact .inl ⟨s.lastNow, h⟩
  · exact .inl ⟨now, h⟩
  · cases h; exact .inr rfl

end Sys2Proof.Machine
end

