-- ==== Sys2Proof/Laws/PerInstr.lean ====
section
/-! SUPPORT. Facts proved for every operation, one lemma per constructor: the number of bytes of its
encoding by format (30_encoding.md R90, R98, R99, R106). -/

namespace Sys2Proof.Laws.EncodedLength

/-- The length of an operation's bytes: one for a wire byte or a reply, none for format I, one plus the
arguments for a host command. -/
def expected : Instr → Nat
  | .start _ _ _ _ name _ => 16 + name.length
  | .poll _ => 9
  | i => match i.format with
    | .internal => 0
    | .wire | .reply | .host => 1

/-- The encoding has the length of its format. -/
def Statement (i : Instr) : Prop := (encode i).length = expected i

theorem bsSoh (now : Time) : Statement (.bsSoh now) := rfl
theorem bsStx (now : Time) : Statement (.bsStx now) := rfl
theorem bsEot (now : Time) : Statement (.bsEot now) := rfl
theorem bsOther (b : Byte) (now : Time) : Statement (.bsOther b now) := rfl
theorem bnByte (b : Byte) (now : Time) : Statement (.bnByte b now) := rfl
theorem bncByte (b : Byte) (now : Time) : Statement (.bncByte b now) := rfl
theorem dbByte (b : Byte) (now : Time) : Statement (.dbByte b now) := rfl
theorem dcByte (b : Byte) (now : Time) : Statement (.dcByte b now) := rfl
theorem dccByte (b : Byte) (now : Time) : Statement (.dccByte b now) := rfl
theorem pgByte (b : Byte) (now : Time) : Statement (.pgByte b now) := rfl
theorem nop : Statement .nop := rfl
theorem start (now : Time) (crc batch cap1k : Bool) (name : List Byte) (fileSize : BitVec 32) :
    Statement (.start now crc batch cap1k name fileSize) := by
  simp [Statement, encode, expected]
  omega
theorem poll (now : Time) : Statement (.poll now) := by simp [Statement, encode, expected]
theorem reset : Statement .reset := rfl
theorem query : Statement .query := rfl
theorem reserved5 : Statement .reserved5 := rfl
theorem reserved6 : Statement .reserved6 := rfl
theorem reserved7 : Statement .reserved7 := rfl
theorem timeout (now : Time) : Statement (.timeout now) := rfl
theorem toRetry (now : Time) : Statement (.toRetry now) := rfl
theorem toAbort : Statement .toAbort := rfl
theorem accClr : Statement .accClr := rfl
theorem accSum (b : Byte) : Statement (.accSum b) := rfl
theorem accCrc (b : Byte) : Statement (.accCrc b) := rfl
theorem engUpd (b : Byte) : Statement (.engUpd b) := rfl
theorem vNak : Statement .vNak := rfl
theorem verdict (now : Time) : Statement (.verdict now) := rfl
theorem vNew (now : Time) : Statement (.vNew now) := rfl
theorem vHdr : Statement .vHdr := rfl
theorem vDup : Statement .vDup := rfl
theorem hdrParse : Statement .hdrParse := rfl
theorem fileOpen : Statement .fileOpen := rfl
theorem faultStorage : Statement .faultStorage := rfl
theorem emit (r : Reply) : Statement (.emit r) := rfl
theorem setPending (r : Reply) : Statement (.setPending r) := rfl
theorem enterIdle : Statement .enterIdle := rfl
theorem rst : Statement .rst := rfl
theorem ack : Statement .ack := rfl
theorem nak : Statement .nak := rfl
theorem can : Statement .can := rfl
theorem c : Statement .c := rfl

end Sys2Proof.Laws.EncodedLength
end

