-- ==== Sys2Proof/Laws/Units.lean ====
section
/-! SUPPORT. The state after each composite update of the units, field by field: ASM, FSM, START. -/

namespace Sys2Proof.Machine

variable (s : State)

/-! `advanceBlock` -/

@[simp] theorem advanceBlock_regs (b : Byte) : (advanceBlock b s).regs =
    { s.regs with
      cursor := s.regs.cursor + 1
      acc := engineByte s.regs.crcMode s.regs.acc b
      bytesRemainingInBlock := s.regs.bytesRemainingInBlock - 1 } := rfl
@[simp] theorem advanceBlock_rx (b : Byte) : (advanceBlock b s).rx = s.rx := rfl
@[simp] theorem advanceBlock_tx (b : Byte) : (advanceBlock b s).tx = s.tx := rfl
@[simp] theorem advanceBlock_calls (b : Byte) : (advanceBlock b s).calls = s.calls := rfl
@[simp] theorem advanceBlock_result (b : Byte) : (advanceBlock b s).result = s.result := rfl
@[simp] theorem advanceBlock_openScript (b : Byte) : (advanceBlock b s).openScript = s.openScript := rfl
@[simp] theorem advanceBlock_writeScript (b : Byte) : (advanceBlock b s).writeScript = s.writeScript := rfl
@[simp] theorem advanceBlock_draws (b : Byte) : (advanceBlock b s).draws = s.draws := rfl
@[simp] theorem advanceBlock_inputs (b : Byte) : (advanceBlock b s).inputs = s.inputs := rfl
@[simp] theorem advanceBlock_lastNow (b : Byte) : (advanceBlock b s).lastNow = s.lastNow := rfl

/-! `freshBlock` -/

@[simp] theorem freshBlock_regs : (freshBlock s).regs =
    { s.regs with
      acc := 0
      cursor := 0
      bytesRemainingInBlock := BitVec.ofNat 11 s.regs.blockSize.bytes } := rfl
@[simp] theorem freshBlock_rx : (freshBlock s).rx = s.rx := rfl
@[simp] theorem freshBlock_tx : (freshBlock s).tx = s.tx := rfl
@[simp] theorem freshBlock_calls : (freshBlock s).calls = s.calls := rfl
@[simp] theorem freshBlock_result : (freshBlock s).result = s.result := rfl
@[simp] theorem freshBlock_openScript : (freshBlock s).openScript = s.openScript := rfl
@[simp] theorem freshBlock_writeScript : (freshBlock s).writeScript = s.writeScript := rfl
@[simp] theorem freshBlock_draws : (freshBlock s).draws = s.draws := rfl
@[simp] theorem freshBlock_inputs : (freshBlock s).inputs = s.inputs := rfl
@[simp] theorem freshBlock_lastNow : (freshBlock s).lastNow = s.lastNow := rfl

/-! `holdFile` -/

@[simp] theorem holdFile_regs (h : Handle) : (holdFile h s).regs =
    { s.regs with openFile := some h, fileCompleted := false } := rfl
@[simp] theorem holdFile_rx (h : Handle) : (holdFile h s).rx = s.rx := rfl
@[simp] theorem holdFile_tx (h : Handle) : (holdFile h s).tx = s.tx := rfl
@[simp] theorem holdFile_calls (h : Handle) : (holdFile h s).calls = s.calls := rfl
@[simp] theorem holdFile_result (h : Handle) : (holdFile h s).result = s.result := rfl
@[simp] theorem holdFile_openScript (h : Handle) : (holdFile h s).openScript = s.openScript := rfl
@[simp] theorem holdFile_writeScript (h : Handle) : (holdFile h s).writeScript = s.writeScript := rfl
@[simp] theorem holdFile_draws (h : Handle) : (holdFile h s).draws = s.draws := rfl
@[simp] theorem holdFile_inputs (h : Handle) : (holdFile h s).inputs = s.inputs := rfl
@[simp] theorem holdFile_lastNow (h : Handle) : (holdFile h s).lastNow = s.lastNow := rfl

/-! `countBlock` -/

@[simp] theorem countBlock_regs : (countBlock s).regs =
    { s.regs with expectedBlockNumber := s.regs.expectedBlockNumber + 1 } := rfl
@[simp] theorem countBlock_rx : (countBlock s).rx = s.rx := rfl
@[simp] theorem countBlock_tx : (countBlock s).tx = s.tx := rfl
@[simp] theorem countBlock_calls : (countBlock s).calls = s.calls := rfl
@[simp] theorem countBlock_result : (countBlock s).result = s.result := rfl
@[simp] theorem countBlock_openScript : (countBlock s).openScript = s.openScript := rfl
@[simp] theorem countBlock_writeScript : (countBlock s).writeScript = s.writeScript := rfl
@[simp] theorem countBlock_draws : (countBlock s).draws = s.draws := rfl
@[simp] theorem countBlock_inputs : (countBlock s).inputs = s.inputs := rfl
@[simp] theorem countBlock_lastNow : (countBlock s).lastNow = s.lastNow := rfl

/-! `awaitFirstBlock` -/

@[simp] theorem awaitFirstBlock_regs : (awaitFirstBlock s).regs =
    { s.regs with
      expectedBlockNumber := 1
      pendingReply := initReply s.regs.crcMode
      state := .blockStart } := rfl
@[simp] theorem awaitFirstBlock_rx : (awaitFirstBlock s).rx = s.rx := rfl
@[simp] theorem awaitFirstBlock_tx : (awaitFirstBlock s).tx = s.tx := rfl
@[simp] theorem awaitFirstBlock_calls : (awaitFirstBlock s).calls = s.calls := rfl
@[simp] theorem awaitFirstBlock_result : (awaitFirstBlock s).result = s.result := rfl
@[simp] theorem awaitFirstBlock_openScript : (awaitFirstBlock s).openScript = s.openScript := rfl
@[simp] theorem awaitFirstBlock_writeScript : (awaitFirstBlock s).writeScript = s.writeScript := rfl
@[simp] theorem awaitFirstBlock_draws : (awaitFirstBlock s).draws = s.draws := rfl
@[simp] theorem awaitFirstBlock_inputs : (awaitFirstBlock s).inputs = s.inputs := rfl
@[simp] theorem awaitFirstBlock_lastNow : (awaitFirstBlock s).lastNow = s.lastNow := rfl

/-! `acceptBlock` -/

@[simp] theorem acceptBlock_regs (k : Nat) (now : Time) : (acceptBlock k now s).regs =
    { s.regs with
      fileBytesRemaining := s.regs.fileBytesRemaining - BitVec.ofNat 32 k
      deadline := now + Config.tLong
      state := .blockStart } := rfl
@[simp] theorem acceptBlock_rx (k : Nat) (now : Time) : (acceptBlock k now s).rx = s.rx := rfl
@[simp] theorem acceptBlock_tx (k : Nat) (now : Time) : (acceptBlock k now s).tx = s.tx := rfl
@[simp] theorem acceptBlock_calls (k : Nat) (now : Time) : (acceptBlock k now s).calls = s.calls := rfl
@[simp] theorem acceptBlock_result (k : Nat) (now : Time) : (acceptBlock k now s).result = s.result := rfl
@[simp] theorem acceptBlock_openScript (k : Nat) (now : Time) : (acceptBlock k now s).openScript = s.openScript := rfl
@[simp] theorem acceptBlock_writeScript (k : Nat) (now : Time) : (acceptBlock k now s).writeScript = s.writeScript := rfl
@[simp] theorem acceptBlock_draws (k : Nat) (now : Time) : (acceptBlock k now s).draws = s.draws := rfl
@[simp] theorem acceptBlock_inputs (k : Nat) (now : Time) : (acceptBlock k now s).inputs = s.inputs := rfl
@[simp] theorem acceptBlock_lastNow (k : Nat) (now : Time) : (acceptBlock k now s).lastNow = s.lastNow := rfl

/-! `nameNextFile` -/

@[simp] theorem nameNextFile_regs : (nameNextFile s).regs =
    { s.regs with
      currentFilename := storeName (headerName (headerPayload s)) s.regs.currentFilename
      fnameLen := BitVec.ofNat 7 (headerName (headerPayload s)).length
      fileBytesRemaining := headerSize (headerPayload s) } := rfl
@[simp] theorem nameNextFile_rx : (nameNextFile s).rx = s.rx := rfl
@[simp] theorem nameNextFile_tx : (nameNextFile s).tx = s.tx := rfl
@[simp] theorem nameNextFile_calls : (nameNextFile s).calls = s.calls := rfl
@[simp] theorem nameNextFile_result : (nameNextFile s).result = s.result := rfl
@[simp] theorem nameNextFile_openScript : (nameNextFile s).openScript = s.openScript := rfl
@[simp] theorem nameNextFile_writeScript : (nameNextFile s).writeScript = s.writeScript := rfl
@[simp] theorem nameNextFile_draws : (nameNextFile s).draws = s.draws := rfl
@[simp] theorem nameNextFile_inputs : (nameNextFile s).inputs = s.inputs := rfl
@[simp] theorem nameNextFile_lastNow : (nameNextFile s).lastNow = s.lastNow := rfl

/-- The parsed name is the one FILE.OPEN uses. -/
theorem nameNextFile_fileName : (nameNextFile s).regs.fileName = headerName (headerPayload s) :=
  take_storeName (headerName_length _)

/-! `newSession` -/

@[simp] theorem newSession_regs (crc batch cap1k : Bool) : (newSession crc batch cap1k s).regs =
    { s.regs with
      crcMode := crc
      batchMode := batch
      bufferCapacity := capacityOf cap1k
      expectedBlockNumber := 1
      blockNumber := 0
      blockSize := .len128
      cursor := 0
      bytesRemainingInBlock := 0
      trailerHi := 0
      acc := 0
      fileCompleted := false
      storageError := false } := rfl
@[simp] theorem newSession_rx (crc batch cap1k : Bool) : (newSession crc batch cap1k s).rx = s.rx := rfl
@[simp] theorem newSession_tx (crc batch cap1k : Bool) : (newSession crc batch cap1k s).tx = s.tx := rfl
@[simp] theorem newSession_calls (crc batch cap1k : Bool) : (newSession crc batch cap1k s).calls = s.calls := rfl
@[simp] theorem newSession_result (crc batch cap1k : Bool) : (newSession crc batch cap1k s).result = s.result := rfl
@[simp] theorem newSession_openScript (crc batch cap1k : Bool) : (newSession crc batch cap1k s).openScript = s.openScript := rfl
@[simp] theorem newSession_writeScript (crc batch cap1k : Bool) : (newSession crc batch cap1k s).writeScript = s.writeScript := rfl
@[simp] theorem newSession_draws (crc batch cap1k : Bool) : (newSession crc batch cap1k s).draws = s.draws := rfl
@[simp] theorem newSession_inputs (crc batch cap1k : Bool) : (newSession crc batch cap1k s).inputs = s.inputs := rfl
@[simp] theorem newSession_lastNow (crc batch cap1k : Bool) : (newSession crc batch cap1k s).lastNow = s.lastNow := rfl

/-! `beginSession` -/

@[simp] theorem beginSession_regs (now : Time) : (beginSession now s).regs =
    { s.regs with
      pendingReply := initReply s.regs.crcMode
      deadline := now + Config.tLong
      state := .blockStart } := rfl
@[simp] theorem beginSession_rx (now : Time) : (beginSession now s).rx = s.rx := rfl
@[simp] theorem beginSession_tx (now : Time) : (beginSession now s).tx = s.tx ++ [(initReply s.regs.crcMode).byte] := rfl
@[simp] theorem beginSession_calls (now : Time) : (beginSession now s).calls = s.calls ++ [.txWrite (initReply s.regs.crcMode).byte, .txFlush] := rfl
@[simp] theorem beginSession_result (now : Time) : (beginSession now s).result = .accepted := rfl
@[simp] theorem beginSession_openScript (now : Time) : (beginSession now s).openScript = s.openScript := rfl
@[simp] theorem beginSession_writeScript (now : Time) : (beginSession now s).writeScript = s.writeScript := rfl
@[simp] theorem beginSession_draws (now : Time) : (beginSession now s).draws = s.draws := rfl
@[simp] theorem beginSession_inputs (now : Time) : (beginSession now s).inputs = s.inputs := rfl
@[simp] theorem beginSession_lastNow (now : Time) : (beginSession now s).lastNow = s.lastNow := rfl

/-! `nameSession`, `endOfPayload`, `writeBlock`, `afterEot` -/

theorem nameSession_eq (name : List Byte) (size : BitVec 32) : nameSession name size s =
    { s with regs := { s.regs with
      currentFilename := if s.regs.batchMode then s.regs.currentFilename
        else storeName (boundName name) s.regs.currentFilename
      fnameLen := if s.regs.batchMode then 0 else BitVec.ofNat 7 (boundName name).length
      fileBytesRemaining := if s.regs.batchMode then 0 else size } } := by
  unfold nameSession
  split <;> simp_all [setFileBytes, setName, clearName]

/-- The name START stores is the one FILE.OPEN uses. -/
theorem nameSession_fileName {name : List Byte} {size : BitVec 32} (h : s.regs.batchMode = false) :
    (nameSession name size s).regs.fileName = boundName name := by
  rw [nameSession, if_neg (by simp [h])]
  exact take_storeName (boundName_length _)

theorem endOfPayload_eq : endOfPayload s = { s with regs := { s.regs with
    state := if s.regs.bytesRemainingInBlock = 0 then .dataCheck else s.regs.state } } := by
  unfold endOfPayload
  split <;> simp_all [goto]

@[simp] theorem writeBlock_regs (h : Handle) (k : Nat) : (writeBlock h k s).regs = s.regs := by
  simp [writeBlock]
@[simp] theorem writeBlock_rx (h : Handle) (k : Nat) : (writeBlock h k s).rx = s.rx := by simp [writeBlock]
@[simp] theorem writeBlock_tx (h : Handle) (k : Nat) : (writeBlock h k s).tx = s.tx := by simp [writeBlock]
@[simp] theorem writeBlock_result (h : Handle) (k : Nat) : (writeBlock h k s).result = s.result := by
  simp [writeBlock]
@[simp] theorem writeBlock_inputs (h : Handle) (k : Nat) : (writeBlock h k s).inputs = s.inputs := by
  simp [writeBlock]
@[simp] theorem writeBlock_lastNow (h : Handle) (k : Nat) : (writeBlock h k s).lastNow = s.lastNow := by
  simp [writeBlock]
@[simp] theorem writeBlock_calls (h : Handle) (k : Nat) :
    (writeBlock h k s).calls = s.calls ++ [.stWrite h (memRead 0 k s) s.writeReply] := by
  simp [writeBlock]

/-- After an EOT with a file: re-arm under a batch name, else `Idle`. -/
theorem afterEot_eq : afterEot s = { s with regs :=
    if s.regs.batchMode = true ∧ s.regs.fnameLen ≠ 0
    then { s.regs with expectedBlockNumber := 1, pendingReply := initReply s.regs.crcMode,
                       state := .blockStart }
    else { s.regs with state := .idle } } := by
  unfold afterEot
  split
  · split <;> simp_all [goto, setReply, setExpected]
  · simp_all [goto]

/-! ### The outcomes that cannot stop -/

/-- A verdict always answers a next state. -/
theorem check_next (m : Bool) (now : Time) : ∃ t, check m now s = .next t := by
  unfold check execVerdict execVNak execVNew execVHdr execVDup
  split
  · split <;> exact ⟨_, rfl⟩
  · exact ⟨_, rfl⟩

end Sys2Proof.Machine
end

