-- ==== Sys2Proof/Laws/Poll.lean ====
section
/-! SUPPORT. What one consumed byte can do (`stepByte`), said once, and the induction over POLL's budget
(`pollLoop`) that carries such facts to a whole POLL. -/

namespace Sys2Proof.Machine

/-! ### What is sent and called -/

@[simp] theorem byteRead_rxAvailable (n : Nat) : Call.byteRead (.rxAvailable n) = none := rfl
@[simp] theorem byteRead_rxRead (b : Byte) : Call.byteRead (.rxRead b) = some b := rfl
@[simp] theorem byteRead_txWrite (b : Byte) : Call.byteRead (.txWrite b) = none := rfl
@[simp] theorem byteRead_txFlush : Call.byteRead .txFlush = none := rfl
@[simp] theorem byteRead_closeCalls (h : Option Handle) :
    (closeCalls h).filterMap Call.byteRead = [] := by cases h <;> rfl

/-- From `s` to `t` calls were added, none of them on the receive queue, and exactly the reply bytes they
send were put on the TX stream. -/
def Sends (s t : State) : Prop :=
  ∃ added sent, t.calls = s.calls ++ added ∧ t.tx = s.tx ++ sent ∧ SendsReplies added sent ∧
    ∀ c ∈ added, c.isReceive = false

theorem SendsReplies.append {a b : List Call} {x y : List Byte} (hb : SendsReplies b y) :
    SendsReplies a x → SendsReplies (a ++ b) (x ++ y) := by
  fun_induction SendsReplies a x with
  | case1 => rintro rfl; simpa
  | case2 x b rest ih =>
    rintro ⟨r, hr, more, rfl, h⟩
    exact ⟨r, hr, more ++ y, rfl, ih more h⟩
  | case3 => intro h; exact h.elim
  | case4 => intro h; exact h.elim
  | case5 x c rest h1 h2 h3 ih =>
    intro h
    cases c <;> simp_all [SendsReplies]

theorem SendsReplies.of_storage {a : List Call} (h : ∀ c ∈ a, c.isStorage = true) : SendsReplies a [] := by
  induction a with
  | nil => rfl
  | cons c a ih =>
    have hc := h c (by simp)
    have ha := ih fun d hd => h d (by simp [hd])
    cases c <;> simp_all [Call.isStorage, SendsReplies]

theorem Sends.trans {s t u : State} (h : Sends s t) (k : Sends t u) : Sends s u := by
  obtain ⟨a, x, ha, hx, hs, hr⟩ := h
  obtain ⟨b, y, hb, hy, ht, hq⟩ := k
  refine ⟨a ++ b, x ++ y, by simp [ha, hb], by simp [hx, hy], ht.append hs, fun c hc => ?_⟩
  rcases List.mem_append.1 hc with hc | hc
  · exact hr c hc
  · exact hq c hc

/-- Storage calls only. -/
theorem Sends.of_calls {s t : State} (a : List Call) (hc : t.calls = s.calls ++ a) (ht : t.tx = s.tx)
    (h : ∀ c ∈ a, c.isStorage = true) : Sends s t :=
  ⟨a, [], hc, by simpa using ht, .of_storage h, fun c hm => by
    have := h c hm; cases c <;> simp_all [Call.isStorage, Call.isReceive]⟩

/-- No call. -/
theorem Sends.of_eq {s t : State} (hc : t.calls = s.calls) (ht : t.tx = s.tx) : Sends s t :=
  .of_calls [] (by simpa using hc) ht (by simp)

theorem Sends.send (r : Reply) (s : State) : Sends s (sendByte r.byte s) :=
  ⟨[.txWrite r.byte, .txFlush], [r.byte], rfl, rfl, ⟨r, rfl, [], rfl, rfl⟩, by simp [Call.isReceive]⟩

theorem Sends.emit (r : Reply) (s : State) : Sends s (emitReply r s) := Sends.send r (setReply r s)

theorem isStorage_closeCalls (h : Option Handle) : ∀ c ∈ closeCalls h, c.isStorage = true := by
  cases h <;> simp [closeCalls, Call.isStorage]

theorem Sends.close (s : State) : Sends s (closeFile s) :=
  .of_calls _ (closeFile_calls s) (by simp) (isStorage_closeCalls _)

theorem Sends.openCurrent (s : State) : Sends s (openCurrent s) := by
  refine .of_calls _ (openCurrent_calls s) (by simp) fun c hc => ?_
  rcases List.mem_append.1 hc with hc | hc
  · exact isStorage_closeCalls _ c hc
  · rcases List.mem_cons.1 hc with rfl | hc
    · rfl
    · rw [List.mem_singleton.1 hc]; rfl

theorem Sends.writeBlock (h : Handle) (k : Nat) (s : State) : Sends s (writeBlock h k s) :=
  .of_calls _ (writeBlock_calls s h k) (by simp) (by simp [Call.isStorage])

/-- The timeout step sends the pending reply; an abort then closes the file. -/
theorem Sends.timeout (now : Time) (s : State) : Sends s (timeoutStep now s) := by
  unfold timeoutStep
  split
  · exact (Sends.send _ s).trans ((Sends.close _).trans (.of_eq rfl rfl))
  · exact (Sends.send _ s).trans (.of_eq rfl rfl)

/-! ### One consumed byte -/

/-- What no operation of a running session touches: the queue (POLL itself takes the byte), the pending
inputs, the returned answer, the session's modes; and what it sends and calls. -/
structure Frame (s t : State) : Prop where
  rx : t.rx = s.rx
  inputs : t.inputs = s.inputs
  result : t.result = s.result
  crcMode : t.regs.crcMode = s.regs.crcMode
  batchMode : t.regs.batchMode = s.regs.batchMode
  bufferCapacity : t.regs.bufferCapacity = s.regs.bufferCapacity
  sends : Sends s t

theorem Frame.mk' {s t : State} (hx : t.rx = s.rx) (hi : t.inputs = s.inputs) (hr : t.result = s.result)
    (hm : t.regs.crcMode = s.regs.crcMode ∧ t.regs.batchMode = s.regs.batchMode ∧
      t.regs.bufferCapacity = s.regs.bufferCapacity) (hs : Sends s t) : Frame s t :=
  ⟨hx, hi, hr, hm.1, hm.2.1, hm.2.2, hs⟩

/-- A verdict keeps the frame and the buffer, and ends in one of three states. -/
theorem check_frame {m : Bool} {now : Time} {s t : State} (h : check m now s = .next t) :
    Frame s t ∧ t.regs.receiveBuffer = s.regs.receiveBuffer ∧
      (t.regs.state = .blockStart ∨ t.regs.state = .idle ∨ t.regs.state = .purge) := by
  have ack := Sends.emit .ack s
  unfold check execVerdict execVNak execVNew execVHdr execVDup at h
  split at h
  · split at h <;> simp only [Host.Outcome.next.injEq] at h
    · split at h
      · subst h
        exact ⟨.mk' (by simp [raise_storage]) (by simp [raise_storage]) (by simp [raise_storage])
          (by simp [raise_storage]) (ack.trans (.of_eq rfl rfl)), by simp [raise_storage]⟩
      · split at h
        · subst h; exact ⟨.mk' (by simp) (by simp) (by simp) (by simp) (ack.trans (.of_eq rfl rfl)), by simp⟩
        · split at h <;> subst h
          · exact ⟨.mk' (by simp) (by simp) (by simp) (by simp)
              ((ack.trans (.of_eq rfl rfl)).trans ((Sends.writeBlock _ _ (countBlock (emitReply .ack s))).trans (.of_eq rfl rfl))), by simp⟩
          · exact ⟨.mk' (by simp [raise_storage]) (by simp [raise_storage]) (by simp [raise_storage])
              (by simp [raise_storage])
              ((ack.trans (.of_eq rfl rfl)).trans ((Sends.writeBlock _ _ (countBlock (emitReply .ack s))).trans (.of_eq rfl rfl))),
              by simp [raise_storage]⟩
    · split at h
      · subst h
        exact ⟨.mk' (by simp) (by simp) (by simp) (by simp)
          ((ack.trans (.of_eq rfl rfl)).trans ((Sends.close (clearName (emitReply .ack s))).trans (.of_eq rfl rfl))), by simp⟩
      · split at h <;> subst h
        · exact ⟨.mk' (by simp) (by simp) (by simp) (by simp)
            ((ack.trans (.of_eq rfl rfl)).trans ((Sends.openCurrent (nameNextFile (emitReply .ack s))).trans (.of_eq rfl rfl))), by simp⟩
        · exact ⟨.mk' (by simp [raise_storage]) (by simp [raise_storage]) (by simp [raise_storage])
            (by simp [raise_storage])
            ((ack.trans (.of_eq rfl rfl)).trans ((Sends.openCurrent (nameNextFile (emitReply .ack s))).trans (.of_eq rfl rfl))),
            by simp [raise_storage]⟩
    · subst h; exact ⟨.mk' (by simp) (by simp) (by simp) (by simp) (ack.trans (.of_eq rfl rfl)), by simp⟩
  · simp only [Host.Outcome.next.injEq] at h
    subst h
    exact ⟨.mk' (by simp [raise_validation]) (by simp [raise_validation]) (by simp [raise_validation])
      (by simp [raise_validation]) ((Sends.emit .nak s).trans (.of_eq rfl rfl)), by simp [raise_validation]⟩

/-- One consumed byte keeps the frame. -/
theorem stepByte_frame {now : Time} {b : Byte} {s t : State} (h : stepByte now b s = .next t) :
    Frame s t := by
  have pre : ∀ u, Frame (preamble now s) u → Frame s u := fun u hu =>
    ⟨hu.rx, hu.inputs, hu.result, hu.crcMode, hu.batchMode, hu.bufferCapacity, hu.sends⟩
  have same : Sends s s := .of_eq rfl rfl
  unfold stepByte at h
  split at h
  · cases h; exact ⟨rfl, rfl, rfl, rfl, rfl, rfl, same⟩
  · split at h
    · cases h; exact ⟨rfl, rfl, rfl, rfl, rfl, rfl, same⟩
    · split at h
      · simp only [execBsStx, Host.Outcome.next.injEq] at h
        split at h <;> subst h <;> exact ⟨rfl, rfl, rfl, rfl, rfl, rfl, same⟩
      · split at h
        · simp only [execBsEot, Host.Outcome.next.injEq] at h
          split at h
          · subst h
            exact .mk' (by simp) (by simp) (by simp) (by simp)
              ((same.trans (.of_eq rfl rfl)).trans ((Sends.close (preamble now s)).trans (.of_eq rfl rfl)))
          · rw [afterEot_eq] at h
            subst h
            refine .mk' (by simp) (by simp) (by simp) (by dsimp only; split <;> simp) ?_
            exact (same.trans (.of_eq rfl rfl)).trans ((Sends.emit .ack (preamble now s)).trans
              ((Sends.close (emitReply .ack (preamble now s))).trans (.of_eq rfl rfl)))
        · cases h; exact ⟨rfl, rfl, rfl, rfl, rfl, rfl, same⟩
  · cases h; exact ⟨rfl, rfl, rfl, rfl, rfl, rfl, same⟩
  · simp only [execBncByte, Host.Outcome.next.injEq] at h
    split at h
    · split at h <;> subst h <;> exact ⟨rfl, rfl, rfl, rfl, rfl, rfl, same⟩
    · subst h; exact ⟨rfl, rfl, rfl, rfl, rfl, rfl, same⟩
  · unfold execDbByte at h
    split at h
    · simp only [Host.Outcome.next.injEq, endOfPayload_eq] at h
      subst h; exact ⟨rfl, rfl, rfl, rfl, rfl, rfl, same⟩
    · cases h
  · unfold execDcByte at h
    split at h
    · cases h; exact ⟨rfl, rfl, rfl, rfl, rfl, rfl, same⟩
    · exact pre t (check_frame h).1
  · exact pre t (check_frame h).1
  · cases h; exact ⟨rfl, rfl, rfl, rfl, rfl, rfl, same⟩

/-- One consumed byte changes the buffer only in `DataBlock`, and there only at `cursor`. -/
theorem stepByte_buffer {now : Time} {b : Byte} {s t : State} (h : stepByte now b s = .next t) :
    t.regs.receiveBuffer = s.regs.receiveBuffer ∨
    (s.regs.state = .dataBlock ∧ s.regs.cursor.toNat < Config.bufPhys ∧
      t.regs.receiveBuffer = Memory.write s.regs.receiveBuffer s.regs.cursor.toNat b) := by
  unfold stepByte at h
  split at h
  · simp only [Host.Outcome.next.injEq] at h; subst h; simp
  · refine .inl ?_
    split at h
    · simp only [execBsSoh, Host.Outcome.next.injEq] at h; subst h; simp
    · split at h
      · simp only [execBsStx, Host.Outcome.next.injEq] at h
        split at h <;> subst h <;> simp [raise_capacity]
      · split at h
        · simp only [execBsEot, Host.Outcome.next.injEq] at h
          split at h
          · subst h; simp
          · rw [afterEot_eq] at h
            subst h; simp; split <;> simp
        · simp only [execBsOther, Host.Outcome.next.injEq] at h; subst h; simp
  · simp only [execBnByte, Host.Outcome.next.injEq] at h; subst h; simp
  · simp only [execBncByte, Host.Outcome.next.injEq] at h
    split at h
    · split at h <;> subst h <;> simp [raise_sequence]
    · subst h; simp [raise_framing]
  · unfold execDbByte at h
    split at h
    · simp only [Host.Outcome.next.injEq, endOfPayload_eq] at h
      subst h; exact .inr ⟨by assumption, by assumption, by simp⟩
    · cases h
  · unfold execDcByte at h
    split at h
    · simp only [Host.Outcome.next.injEq] at h; subst h; simp
    · exact .inl (check_frame h).2.1
  · exact .inl (check_frame h).2.1
  · simp only [execPgByte, Host.Outcome.next.injEq] at h; subst h; simp

/-- The dispatch of a byte agrees with the decoder: `stepByte` is `exec` of the operation decoded. -/
theorem stepByte_decoded {now : Time} {b : Byte} {s : State} {i : Instr}
    (h : decodeWire s.regs.state now b = some i) : stepByte now b s = exec i s := by
  unfold stepByte
  cases hs : s.regs.state <;> simp only [hs, decodeWire] at h ⊢
  case idle => cases h
  case blockStart =>
    split at h
    · cases h; simp_all; rfl
    · split at h
      · cases h; simp_all; rfl
      · split at h <;> cases h <;> simp_all <;> rfl
  all_goals cases h; rfl

/-- Induction over POLL's budget: what every take of a byte and its step preserve, the loop preserves. -/
theorem pollLoop_induct {now : Time} {P : State → Prop}
    (hstep : ∀ (b : Byte) (rest : List Byte) (s t : State), s.regs.state ≠ .idle → P s →
      stepByte now b (takeByte b rest s) = .next t → P t)
    (bs : List Byte) : ∀ s t : State, P s → pollLoop now bs s = .next t → P t := by
  induction bs with
  | nil => intro s t hs h; cases h; exact hs
  | cons b bs ih =>
    intro s t hs h
    unfold pollLoop at h
    split at h
    · cases h; exact hs
    · rename_i hne
      split at h
      · rename_i u hu; exact ih u t (hstep b bs s u hne hs hu) h
      · cases h
      · cases h

/-- A loop entered in `Idle` takes nothing. -/
theorem pollLoop_idle {now : Time} {xs : List Byte} {s : State} (h : s.regs.state = .idle) :
    pollLoop now xs s = .next s := by
  cases xs <;> simp [pollLoop, h]

end Sys2Proof.Machine
end

