-- ==== Sys2Proof/Tests/Slice0.lean ====
section
/-! SUPPORT. The model's own tests: ill-formed terms, words written out from 30_encoding.md, one-step checks
whose expected values are those of 95_test_vectors.md, and one witness for every statement's hypotheses. -/

namespace Sys2Proof.Tests

open Sys2Proof.Machine

/-! ### Helpers -/

/-- The outcome is a next state with the given property. -/
def sees (o : Out) (p : State → Bool) : Bool :=
  match o with
  | .next t => p t
  | .fault _ | .refused _ => false

/-- A state in a session: `st`, block 1 expected, a file of 3 bytes open as handle 7, and storage
answering handle 8 and success. -/
def running (st : FsmState) : State :=
  { State.reset with
    regs := { Regs.reset with
      state := st, expectedBlockNumber := 1, pendingReply := .ack, deadline := 10
      fileBytesRemaining := 3, currentFilename := 0x61#8 :: List.replicate 63 0, fnameLen := 1
      openFile := some 7 }
    openScript := [some 8], writeScript := [true] }

/-- The same with other registers. -/
def withRegs (s : State) (f : Regs → Regs) : State := { s with regs := f s.regs }

/-- The same with bytes in the RX queue. -/
def queued (s : State) (bs : List Byte) : State := { s with rx := bs }

/-- The same with one pending input. -/
def given (s : State) (i : Input) : State := { s with inputs := [i] }

/-- The same with bytes at the front of the buffer, kept in canonical form. -/
def loaded (s : State) (bs : List Byte) : State :=
  withRegs s fun r => { r with
    receiveBuffer := (bs.zipIdx.filter (·.1 != 0x00#8)).map fun p => (p.2, p.1) }

/-- ASCII "abc". -/
def abc : List Byte := [0x61#8, 0x62#8, 0x63#8]

/-! ### WellFormed: one ill-formed term per check -/

theorem test_wf_now : (Instr.poll (2 ^ 64)).wellFormed = false ∧ (Instr.poll (2 ^ 64 - 1)).wellFormed = true := by
  decide

theorem test_wf_wire_now : (Instr.bnByte 0 (2 ^ 64)).wellFormed = false := by decide

theorem test_wf_other_byte : (Instr.bsOther 0x01#8 0).wellFormed = false ∧
    (Instr.bsOther 0x02#8 0).wellFormed = false ∧ (Instr.bsOther 0x04#8 0).wellFormed = false ∧
    (Instr.bsOther 0x03#8 0).wellFormed = true := by decide

theorem test_wf_name_nul : (Instr.start 0 false false false [0x61#8, 0x00#8] 3).wellFormed = false ∧
    (Instr.start 0 false true false [0x61#8, 0x00#8] 3).wellFormed = true := by decide

theorem test_wf_name_long (name : List Byte) (h : name.length = 2 ^ 16) :
    (Instr.start 0 false true false name 0).wellFormed = false := by simp [Instr.wellFormed, nameFits, h]

theorem test_wf_set_ack : (Instr.setPending .ack).wellFormed = false ∧
    (Instr.setPending .can).wellFormed = true := by decide

/-! ### Decoding: words written out from the tables of R91, R98, R99, R100 -/

theorem test_decode_block_start :
    decode .wire .blockStart 5 [0x01#8] = .ok (.bsSoh 5, []) ∧
    decode .wire .blockStart 5 [0x02#8] = .ok (.bsStx 5, []) ∧
    decode .wire .blockStart 5 [0x04#8] = .ok (.bsEot 5, []) ∧
    decode .wire .blockStart 5 [0x03#8] = .ok (.bsOther 0x03#8 5, []) := ⟨rfl, rfl, rfl, rfl⟩

theorem test_decode_in_block :
    decode .wire .blockNumber 5 [0x01#8] = .ok (.bnByte 0x01#8 5, []) ∧
    decode .wire .blockNumberCheck 5 [0xFE#8] = .ok (.bncByte 0xFE#8 5, []) ∧
    decode .wire .dataBlock 5 [0x04#8] = .ok (.dbByte 0x04#8 5, []) ∧
    decode .wire .dataCheck 5 [0xD8#8] = .ok (.dcByte 0xD8#8 5, []) ∧
    decode .wire .dataCheckCrc 5 [0x16#8] = .ok (.dccByte 0x16#8 5, []) ∧
    decode .wire .purge 5 [0x02#8] = .ok (.pgByte 0x02#8 5, []) := ⟨rfl, rfl, rfl, rfl, rfl, rfl⟩

theorem test_decode_idle_takes_nothing : decode .wire .idle 5 [0x01#8] = .error .noByteInIdle := rfl

theorem test_decode_host_codes :
    decodeHost [0x00#8] = .ok (.nop, []) ∧ decodeHost [0x03#8] = .ok (.reset, []) ∧
    decodeHost [0x04#8] = .ok (.query, []) ∧ decodeHost [0x05#8] = .ok (.reserved5, []) ∧
    decodeHost [0x06#8] = .ok (.reserved6, []) ∧ decodeHost [0x07#8] = .ok (.reserved7, []) :=
  ⟨rfl, rfl, rfl, rfl, rfl, rfl⟩

theorem test_decode_poll : decodeHost [2#8, 0x64#8, 0, 0, 0, 0, 0, 0, 0] = .ok (.poll 100, []) := rfl

/-- START 0x0102, crc 1, batch 0, cap1k 1, name "abc", size 3, with one byte left over. -/
theorem test_decode_start :
    decodeHost ([1#8, 2, 1, 0, 0, 0, 0, 0, 0, 0x05#8, 3, 0] ++ abc ++ [3, 0, 0, 0, 0xFF#8]) =
      .ok (.start 0x0102 true false true abc 3, [0xFF#8]) := rfl

theorem test_decode_replies :
    decode .reply .idle 0 [0x06#8] = .ok (.ack, []) ∧ decode .reply .idle 0 [0x15#8] = .ok (.nak, []) ∧
    decode .reply .idle 0 [0x18#8] = .ok (.can, []) ∧ decode .reply .idle 0 [0x43#8] = .ok (.c, []) :=
  ⟨rfl, rfl, rfl, rfl⟩

theorem test_decode_rejects :
    decodeHost [] = .error .noBytes ∧ decodeHost [0x08#8] = .error .commandHighBits ∧
    decodeHost [2#8, 0] = .error .truncatedArguments ∧
    decodeHost ([1#8] ++ List.replicate 8 0 ++ [0x08#8]) = .error .flagHighBits ∧
    decode .reply .idle 0 [0x01#8] = .error .notAReply ∧
    decode .internal .idle 0 [0x01#8] = .error .noBitPattern := ⟨rfl, rfl, rfl, rfl, rfl, rfl⟩

/-- Format I: the register values that select each operation (opcode_table.json `select`). -/
theorem test_select :
    selectEngine true 9 = .accCrc 9 ∧ selectEngine false 9 = .accSum 9 ∧
    selectTimeout .can 9 = .toAbort ∧ selectTimeout .ack 9 = .toRetry 9 ∧
    selectCheck false 9 = .vNak ∧ selectCheck true 9 = .verdict 9 ∧
    selectVerdict 0 0 true 9 = .vNew 9 ∧ selectVerdict 0 1 true 9 = .vHdr ∧
    selectVerdict 0 1 false 9 = .vDup := ⟨rfl, rfl, rfl, rfl, rfl, rfl, rfl, rfl, rfl⟩

theorem test_table_words :
    decodeTableWord 8 0x00 = some .nop ∧ decodeTableWord 8 0x02 = some (.poll 0) ∧
    decodeTableWord 8 0x15 = some .nak ∧ decodeTableWord 8 0x43 = some .c ∧
    decodeTableWord 8 0x20 = some (.bsOther 0x20#8 0) := ⟨rfl, rfl, rfl, rfl, rfl⟩

/-- A placed host word is run by the very next step. -/
theorem test_fetch_query : step (State.reset.withFetchWord 8 0x04) =
    .next { State.reset with result := .queried Regs.reset } := rfl

/-- A placed reply byte is sent by the very next step. -/
theorem test_fetch_reply : sees (step (State.reset.withFetchWord 8 0x18))
    (fun t => t.tx == [0x18#8] && t.regs.state == .idle) = true := by decide

/-- A placed wire byte is consumed by the very next step. -/
theorem test_fetch_wire : sees (step (State.reset.withFetchWord 8 0x20))
    (fun t => t.rx == [] && t.regs.state == .blockStart && t.calls == [.rxAvailable 1, .rxRead 0x20#8]) = true := by
  decide

/-! ### ENG: 95_test_vectors.md 2.1 -/

/-- V-ENG-1. -/
theorem test_acc_clr :
    sees (exec .accClr (withRegs State.reset fun r => { r with acc := 0x31C3#16 }))
      (fun t => t.regs.acc == 0x0000#16) = true := by decide

/-- V-ENG-2, V-ENG-3, V-ENG-4. -/
theorem test_acc_sum : sumByte 0x00C3#16 0x63#8 = 0x0026#16 ∧ sumByte 0x00FF#16 0x01#8 = 0 ∧
    sumByte 0x0080#16 0x80#8 = 0 := by decide

/-- V-ENG-6, V-ENG-7, V-ENG-8. -/
theorem test_acc_crc : crcByte 0 0x01#8 = 0x1021#16 ∧ crcByte 0 0x80#8 = 0x9188#16 ∧
    crcByte 0 0xFF#8 = 0x1EF0#16 ∧ crcByte 0xFFFF#16 0x00#8 = 0xE1F0#16 ∧
    crcByte 0x8000#16 0x80#8 = 0 ∧ crcByte 0x1234#16 0x56#8 = 0x3C40#16 := by decide

/-- V-ENG-9, the first four iterations. -/
theorem test_crc_iterations : crcBit 0x1234#16 false = 0x2468#16 ∧ crcBit 0x2468#16 true = 0x58F1#16 ∧
    crcBit 0x58F1#16 false = 0xB1E2#16 ∧ crcBit 0xB1E2#16 true = 0x63C4#16 := by decide

set_option maxRecDepth 8000 in
/-- V-ENG-10: "123456789". -/
theorem test_crc_check_value :
    payloadCheck true [0x31#8, 0x32#8, 0x33#8, 0x34#8, 0x35#8, 0x36#8, 0x37#8, 0x38#8, 0x39#8] = 0x31C3#16 ∧
    payloadCheck false [0x31#8, 0x32#8, 0x33#8, 0x34#8, 0x35#8, 0x36#8, 0x37#8, 0x38#8, 0x39#8] = 0x00DD#16 := by
  decide

/-- V-ENG-6 and V-ENG-2 through ENG.UPD. -/
theorem test_eng_upd :
    sees (exec (.engUpd 0x41#8) (withRegs State.reset fun r => { r with crcMode := true }))
      (fun t => t.regs.acc == 0x58E5#16) = true ∧
    sees (exec (.engUpd 0x63#8) (withRegs State.reset fun r => { r with acc := 0x00C3#16 }))
      (fun t => t.regs.acc == 0x0026#16) = true := by decide

/-! ### ASM: 95_test_vectors.md 2.2 -/

/-- V-ASM-1. -/
theorem test_db_byte :
    sees (exec (.dbByte 0x61#8 0) (withRegs (running .dataBlock) fun r => { r with bytesRemainingInBlock := 128 }))
      (fun t => t.readByte 0 == 0x61#8 && t.regs.cursor == 1 && t.regs.bytesRemainingInBlock == 127 &&
        t.regs.acc == 0x0061#16 && t.regs.state == .dataBlock) = true := by decide

/-- V-ASM-2. -/
theorem test_db_last_byte :
    sees (exec (.dbByte 0x1A#8 0) (withRegs (running .dataBlock) fun r => { r with
        bytesRemainingInBlock := 1, cursor := 127, acc := 0x00BE#16 }))
      (fun t => t.readByte 127 == 0x1A#8 && t.regs.cursor == 128 && t.regs.bytesRemainingInBlock == 0 &&
        t.regs.acc == 0x00D8#16 && t.regs.state == .dataCheck) = true := by decide

/-! ### FSM: 95_test_vectors.md 2.3 and 3 -/

/-- V-FSM-5, first byte. -/
theorem test_bs_soh : sees (exec (.bsSoh 3) (running .blockStart))
    (fun t => t.regs.blockSize == .len128 && t.regs.state == .blockNumber) = true := by decide

/-- P5 at the byte 02; P6. -/
theorem test_bs_stx :
    sees (exec (.bsStx 10) (running .blockStart)) (fun t => t.regs.blockSize == .len1024 &&
      t.regs.pendingReply == .nak && t.regs.state == .purge && t.tx == []) = true ∧
    sees (exec (.bsStx 10) (withRegs (running .blockStart) fun r => { r with bufferCapacity := .len1024 }))
      (fun t => t.regs.blockSize == .len1024 && t.regs.state == .blockNumber) = true := by decide

/-- V-FSM-9 and P2's re-arm. -/
theorem test_bs_eot :
    sees (exec (.bsEot 5) (running .blockStart)) (fun t => t.tx == [0x06#8] && t.regs.state == .idle &&
      t.calls == [.txWrite 0x06#8, .txFlush, .stClose 7] && t.regs.fileCompleted) = true ∧
    sees (exec (.bsEot 5) (withRegs (running .blockStart) fun r => { r with batchMode := true, crcMode := true }))
      (fun t => t.regs.state == .blockStart && t.regs.pendingReply == .c &&
        t.regs.expectedBlockNumber == 1 && t.tx == [0x06#8]) = true := by decide

/-- V-FSM-16: EOT before any header. -/
theorem test_bs_eot_no_file :
    sees (exec (.bsEot 3) (withRegs (running .blockStart) fun r => { r with openFile := none }))
      (fun t => t.tx == [] && t.regs.state == .idle && !t.regs.fileCompleted) = true := by decide

/-- V-FSM-4. -/
theorem test_bs_other : exec (.bsOther 0x18#8 20000) (running .blockStart) =
    .next (withRegs (running .blockStart) fun r => { r with deadline := 20000 + Config.tShort }) := rfl

/-- V-FSM-5, second byte. -/
theorem test_bn_byte : sees (exec (.bnByte 0x01#8 3) (running .blockNumber))
    (fun t => t.regs.blockNumber == 1 && t.regs.state == .blockNumberCheck) = true := by decide

/-- V-FSM-5 (good), V-FSM-7 (framing wins), P3 (sequence). -/
theorem test_bnc_byte :
    sees (exec (.bncByte 0xFE#8 3) (withRegs (running .blockNumberCheck) fun r => { r with blockNumber := 1 }))
      (fun t => t.regs.state == .dataBlock && t.regs.acc == 0 && t.regs.cursor == 0 &&
        t.regs.bytesRemainingInBlock == 128) = true ∧
    sees (exec (.bncByte 0x00#8 3) (withRegs (running .blockNumberCheck) fun r => { r with blockNumber := 7 }))
      (fun t => t.regs.state == .purge && t.regs.pendingReply == .nak && t.tx == []) = true ∧
    sees (exec (.bncByte 0xFA#8 3) (withRegs (running .blockNumberCheck) fun r => { r with blockNumber := 5 }))
      (fun t => t.regs.state == .purge && t.regs.pendingReply == .can && t.tx == []) = true := by decide

/-- V-FSM-15: with 0 expected, 255 is the block before. -/
theorem test_bnc_wrap :
    sees (exec (.bncByte 0x00#8 3) (withRegs (running .blockNumberCheck) fun r => { r with
        blockNumber := 0xFF#8, expectedBlockNumber := 0 })) (fun t => t.regs.state == .dataBlock) = true := by
  decide

/-- V-FSM-11: the byte 17 against the checksum D8. -/
theorem test_dc_byte :
    sees (exec (.dcByte 0x17#8 10) (withRegs (running .dataCheck) fun r => { r with acc := 0x00D8#16 }))
      (fun t => t.tx == [0x15#8] && t.regs.state == .blockStart && t.regs.expectedBlockNumber == 1) = true ∧
    sees (exec (.dcByte 0xD8#8 10) (withRegs (running .dataCheck) fun r => { r with crcMode := true }))
      (fun t => t.regs.trailerHi == 0xD8#8 && t.regs.state == .dataCheckCrc && t.tx == []) = true := by decide

/-- V-FSM-10: last byte 96 instead of 16; and the good trailer 17 16. -/
theorem test_dcc_byte :
    sees (exec (.dccByte 0x96#8 9) (withRegs (running .dataCheckCrc) fun r => { r with
        crcMode := true, acc := 0x1716#16, trailerHi := 0x17#8 }))
      (fun t => t.tx == [0x15#8] && t.regs.state == .blockStart) = true ∧
    sees (exec (.dccByte 0x16#8 9) (withRegs (running .dataCheckCrc) fun r => { r with
        crcMode := true, acc := 0x1716#16, trailerHi := 0x17#8 }))
      (fun t => t.tx == [0x06#8] && t.regs.state == .blockStart) = true := by decide

/-- V-FSM-19. -/
theorem test_pg_byte : exec (.pgByte 0x61#8 500) (running .purge) =
    .next (withRegs (running .purge) fun r => { r with deadline := 500 + Config.tShort }) := rfl

/-- V-FSM-1: the file's three bytes, and no more, are written. -/
theorem test_v_new :
    sees (exec (.vNew 3) (loaded (running .dataCheck) abc))
      (fun t => t.calls == [.stWrite 7 abc true] && t.regs.expectedBlockNumber == 2 &&
        t.regs.fileBytesRemaining == 0 && t.regs.state == .blockStart) = true := by decide

/-- V-FSM-17 (no file) and P7 (write failure). -/
theorem test_v_new_storage :
    sees (exec (.vNew 3) (withRegs (running .dataCheck) fun r => { r with openFile := none }))
      (fun t => t.regs.storageError && t.regs.expectedBlockNumber == 2 && t.regs.pendingReply == .can &&
        t.regs.state == .purge && t.calls == []) = true ∧
    sees (exec (.vNew 3) { running .dataCheck with writeScript := [false] })
      (fun t => t.regs.storageError && t.regs.fileBytesRemaining == 3 && t.regs.pendingReply == .can &&
        t.regs.state == .purge) = true := by decide

theorem test_v_nak : sees (exec .vNak (running .dataCheck))
    (fun t => t.tx == [0x15#8] && t.regs.pendingReply == .nak && t.regs.state == .blockStart) = true := by decide

/-- V-FSM-8: block 0 in XMODEM is a duplicate. -/
theorem test_verdict_duplicate : sees (exec (.verdict 3) (running .dataCheck))
    (fun t => t.tx == [0x06#8] && t.calls == [.txWrite 0x06#8, .txFlush] &&
      t.regs.expectedBlockNumber == 1 && t.regs.state == .blockStart) = true := by decide

/-- P9: block 0 as new data before block 0 as a header. -/
theorem test_verdict_priority :
    sees (exec (.verdict 3) (withRegs (running .dataCheck) fun r => { r with
        batchMode := true, expectedBlockNumber := 0 })) (fun t => t.regs.expectedBlockNumber == 1 &&
        t.calls == [.txWrite 0x06#8, .txFlush, .stWrite 7 [0, 0, 0] true]) = true := by decide

theorem test_v_dup : sees (exec .vDup (running .dataCheck))
    (fun t => t.regs.state == .blockStart && t.calls == []) = true := by decide

/-- V-FSM-18, second header: close, remove, open; size 10. The payload is `a NUL "10"`. -/
theorem test_v_hdr :
    sees (exec .vHdr (loaded (running .dataCheck) [0x61#8, 0, 0x31#8, 0x30#8]))
      (fun t => t.calls == [.stClose 7, .stRemove [0x61#8], .stOpen [0x61#8] (some 8)] &&
        t.regs.fileBytesRemaining == 10 && t.regs.pendingReply == .nak && t.regs.state == .blockStart) = true := by
  decide

/-- P2, end of batch: an empty name, by `fname_len` alone (R178). -/
theorem test_v_hdr_end : sees (exec .vHdr (running .dataCheck))
    (fun t => t.regs.state == .idle && t.regs.fnameLen == 0 && t.regs.fileName == [] &&
      t.calls == [.stClose 7]) = true := by decide

/-- R37, R241: the caller's name goes to the first bytes of the register, 64 of 70 at most (V-HOST-9). -/
theorem test_name_stored :
    storeName [0x62#8] (0x61#8 :: List.replicate 63 0x63#8) = 0x62#8 :: List.replicate 63 0x63#8 ∧
    sees (exec (.start 7 true false false (List.replicate 70 0x61#8) 3) { State.reset with openScript := [some 1] })
      (fun t => t.regs.fnameLen == 64 && t.regs.currentFilename == List.replicate 64 0x61#8) = true := by decide

/-! ### HDR: 95_test_vectors.md 2.4 -/

/-- V-HDR-1 with name `a`, V-HDR-6. -/
theorem test_hdr_parse :
    sees (exec .hdrParse (loaded (running .dataCheck) [0x61#8, 0, 0x31#8, 0x32#8, 0x20#8, 0x33#8, 0x34#8]))
      (fun t => t.result == .header [0x61#8] 12) = true := by decide

/-- V-HDR-5, V-HDR-7, V-HDR-8, V-HDR-13, V-HDR-14. -/
theorem test_hdr_sizes :
    headerSize [0x61#8, 0, 0x30#8, 0x30#8, 0x31#8, 0x30#8, 0] = 10 ∧
    headerSize [0x61#8, 0, 0x20#8, 0x31#8, 0x32#8, 0] = 0 ∧ headerSize [0x61#8, 0, 0x2D#8, 0x35#8, 0] = 0 ∧
    headerSize [0x61#8, 0, 0, 0x35#8, 0x35#8, 0] = 0 ∧
    headerSize [0x61#8, 0, 0x30#8, 0x78#8, 0x31#8, 0x30#8, 0] = 0 := by decide

/-- V-HDR-9, V-HDR-10: 4294967295 and 4294967296. -/
theorem test_hdr_saturates :
    headerSize [0, 0x34#8, 0x32#8, 0x39#8, 0x34#8, 0x39#8, 0x36#8, 0x37#8, 0x32#8, 0x39#8, 0x35#8] = 0xFFFFFFFF#32 ∧
    headerSize [0, 0x34#8, 0x32#8, 0x39#8, 0x34#8, 0x39#8, 0x36#8, 0x37#8, 0x32#8, 0x39#8, 0x36#8] = 0xFFFFFFFF#32 := by
  decide

/-- V-HDR-16, V-HDR-17: 64 bytes of a longer name. -/
theorem test_hdr_long_name :
    (headerName (List.replicate 128 0x41#8)).length = 64 ∧ headerSize (List.replicate 128 0x41#8) = 0 ∧
    headerSize (List.replicate 70 0x41#8 ++ [0, 0x34#8, 0x32#8, 0]) = 42 := by decide

/-- V-FSM-18: FILE.OPEN's calls, and its failure outside `Idle`. -/
theorem test_file_open :
    sees (exec .fileOpen (running .blockStart)) (fun t => t.regs.openFile == some 8 &&
      t.calls == [.stClose 7, .stRemove [0x61#8], .stOpen [0x61#8] (some 8)]) = true ∧
    sees (exec .fileOpen { running .blockStart with openScript := [none] }) (fun t => t.regs.openFile == none &&
      t.regs.storageError && t.regs.pendingReply == .can && t.regs.state == .purge) = true := by decide

/-! ### Helpers, TMR and replies -/

theorem test_emit : sees (exec (.emit .c) (running .blockStart))
    (fun t => t.tx == [0x43#8] && t.regs.pendingReply == .c) = true := by decide

theorem test_set : sees (exec (.setPending .can) (running .blockStart))
    (fun t => t.calls == [] && t.regs.pendingReply == .can) = true := by decide

theorem test_enter_idle : sees (exec .enterIdle (running .purge))
    (fun t => t.calls == [.stClose 7] && t.regs.openFile == none && t.regs.state == .idle) = true := by decide

theorem test_fault_storage : sees (exec .faultStorage (running .dataCheck))
    (fun t => t.regs.storageError && t.regs.pendingReply == .can && t.regs.state == .purge && t.calls == []) = true := by
  decide

/-- V-TMR-6, V-TMR-5. -/
theorem test_timeout :
    sees (exec (.timeout 1021) (running .dataBlock)) (fun t => t.tx == [0x06#8] && t.regs.state == .blockStart &&
      t.regs.pendingReply == .ack) = true ∧
    sees (exec (.timeout 1011) (withRegs (running .purge) fun r => { r with pendingReply := .can }))
      (fun t => t.calls == [.txWrite 0x18#8, .txFlush, .stClose 7] && t.regs.state == .idle &&
        t.regs.pendingReply == .nak && t.regs.deadline == 10) = true := by decide

theorem test_to_retry : exec (.toRetry 10001) (running .purge) =
    .next (withRegs (running .purge) fun r => { r with
      deadline := 10001 + Config.tLong, state := .blockStart }) := rfl

theorem test_to_abort : sees (exec .toAbort (running .purge))
    (fun t => t.calls == [.stClose 7] && t.regs.state == .idle && t.regs.pendingReply == .nak) = true := by decide

/-- The reply bytes of R91. -/
theorem test_replies :
    sees (exec .ack (running .blockStart)) (fun t => t.calls == [.txWrite 0x06#8, .txFlush]) = true ∧
    sees (exec .nak (running .blockStart)) (fun t => t.calls == [.txWrite 0x15#8, .txFlush]) = true ∧
    sees (exec .can (running .blockStart)) (fun t => t.calls == [.txWrite 0x18#8, .txFlush]) = true ∧
    sees (exec .c (running .blockStart)) (fun t => t.calls == [.txWrite 0x43#8, .txFlush]) = true := by decide

/-! ### Host commands: 95_test_vectors.md 2.5 and 2.6 -/

/-- V-HOST-1. -/
theorem test_start : sees (exec (.start 0 false false false abc 3) { State.reset with openScript := [some 1] })
    (fun t => t.result == .accepted && t.regs.state == .blockStart && t.calls ==
      [.stRemove abc, .stOpen abc (some 1), .txWrite 0x15#8, .txFlush]) = true := by decide

/-- V-HOST-5; V-HOST-3. -/
theorem test_start_refused :
    sees (exec (.start 0 false false false abc 5) { State.reset with openScript := [none] })
      (fun t => t.result == .refusedByStorage && t.regs.state == .idle && t.regs.storageError && t.tx == []) = true ∧
    exec (.start 1 true true true [] 0) (running .blockStart) =
      .next { running .blockStart with result := .refused } := ⟨by decide, rfl⟩

/-- V-FSM-9: the bytes after EOT stay in the queue. -/
theorem test_poll_eot : sees (exec (.poll 5) (queued (running .blockStart) [0x04#8, 0x01#8, 0x01#8]))
    (fun t => t.rx == [0x01#8, 0x01#8] && t.regs.state == .idle && t.result == .polled 0) = true := by decide

/-- V-TMR-1, V-TMR-2: the timeout test is strict. -/
theorem test_poll_timeout :
    sees (exec (.poll 10) (running .blockStart)) (fun t => t.calls == [.rxAvailable 0]) = true ∧
    sees (exec (.poll 11) (running .blockStart)) (fun t => t.tx == [0x06#8]) = true := by decide

/-- V-HOST-4. -/
theorem test_reset : sees (exec .reset (running .dataBlock)) (fun t => t.calls == [.stClose 7] &&
    t.regs.state == .idle && t.regs.pendingReply == .nak && t.tx == []) = true := by decide

/-- V-HOST-7. -/
theorem test_nop :
    exec .nop (running .purge) = .next (running .purge) ∧
    exec .reserved5 (running .purge) = .next (running .purge) ∧
    exec .reserved6 (running .purge) = .next (running .purge) ∧
    exec .reserved7 (running .purge) = .next (running .purge) := ⟨rfl, rfl, rfl, rfl⟩

/-- V-HOST-8. -/
theorem test_query_after_rst : sees (exec .query State.reset) (fun t => match t.result with
    | .queried r => r.state == .idle && r.pendingReply == .nak && r.openFile == none && r.fnameLen == 0 &&
        !r.fileCompleted && !r.storageError
    | _ => false) = true := by decide

/-- R37, R249: QUERY returns all 64 bytes of the name register, the old name's too when `fname_len` is 0. -/
theorem test_query_name_bytes :
    sees (exec .query (clearName (running .blockStart))) (fun t => match t.result with
      | .queried r => r.fnameLen == 0 && r.currentFilename == 0x61#8 :: List.replicate 63 0
      | _ => false) = true := by decide

theorem test_rst : exec .rst (running .purge) = .next { running .purge with regs := Regs.reset } := rfl

/-! ### Witnesses: for each statement with hypotheses, states and operands that meet all of them -/

/-- A CRC session of capacity 1024 in the middle of a 1024-byte block's payload, one byte to go. -/
def nearEnd : State :=
  withRegs (running .dataBlock) fun r => { r with
    bufferCapacity := .len1024, blockSize := .len1024, cursor := 1023, bytesRemainingInBlock := 1 }

theorem witness_CrcIsLinear : abc.length = [0x78#8, 0x79#8, 0x7A#8].length := rfl

theorem witness_SingleByteChangeDetected : (0x05#8 : Byte) ≠ 0x04#8 := by decide

theorem witness_AccumulatorCleared :
    (∃ t, exec (.bncByte 0xFE#8 3) (withRegs (running .blockNumberCheck) fun r => { r with blockNumber := 1 }) =
      .next t ∧ (0xFE#8 : Byte) = ~~~0x01#8) ∧
    (∃ t, exec (.start 0 true true false [] 0) State.reset = .next t ∧ t.result = .accepted) :=
  ⟨⟨_, rfl, rfl⟩, ⟨_, rfl, rfl⟩⟩

theorem witness_EngineSelectedByMode :
    (withRegs State.reset fun r => { r with crcMode := true }).regs.crcMode = true ∧
    State.reset.regs.crcMode = false ∧
    (∃ t u, exec (.dbByte 0x61#8 0) State.reset = .next t ∧ exec (.engUpd 0x61#8) State.reset = .next u) :=
  ⟨rfl, rfl, _, _, rfl, rfl⟩

/-- At both ends of the buffer, with one byte and with 128 bytes to go. -/
theorem witness_DataByteStored :
    (Memory.wf nearEnd.regs.receiveBuffer ∧ nearEnd.regs.cursor.toNat < 1024 ∧
      1 ≤ nearEnd.regs.bytesRemainingInBlock.toNat) ∧
    (∀ s, s = (withRegs (loaded (running .dataBlock) abc) fun r => { r with bytesRemainingInBlock := 128 }) →
      Memory.wf s.regs.receiveBuffer ∧ s.regs.cursor.toNat < 1024 ∧ 1 ≤ s.regs.bytesRemainingInBlock.toNat) :=
  ⟨by decide, by rintro _ rfl; decide⟩

theorem witness_DataByteStopsOutsideBuffer :
    1024 ≤ (withRegs State.reset fun r => { r with cursor := 1024 }).regs.cursor.toNat := by decide

theorem witness_BufferFormIsCanonical :
    Memory.wf [(0, 0x61#8), (5, 0x62#8)] ∧ ∀ a, Memory.read [(0, 0x61#8), (5, 0x62#8)] a =
      Memory.read (Memory.write (Memory.write [] 5 0x62#8) 0 0x61#8) a := ⟨by decide, fun _ => rfl⟩

theorem witness_EnterIdleClosesFile :
    State.reset.regs.openFile = none ∧ (running .purge).regs.openFile = some 7 := ⟨rfl, rfl⟩

theorem witness_StxChecksCapacity :
    nearEnd.regs.bufferCapacity.bytes = 1024 ∧ (running .blockStart).regs.bufferCapacity.bytes = 128 := ⟨rfl, rfl⟩

theorem witness_EotClosesFile :
    State.reset.regs.openFile = none ∧ (running .blockStart).regs.openFile = some 7 ∧
    (∀ s, s = (withRegs (running .blockStart) fun r => { r with batchMode := true }) →
      s.regs.openFile = some 7 ∧ s.regs.batchMode = true ∧ s.regs.currentFilename.length ≠ 0) :=
  ⟨rfl, rfl, by rintro _ rfl; decide⟩

theorem witness_FirstTrailerByte :
    (withRegs State.reset fun r => { r with crcMode := true }).regs.crcMode = true ∧
    State.reset.regs.crcMode = false := ⟨rfl, rfl⟩

/-- No file; a file with nothing left to write; one byte left (and a whole block), written and failed. -/
theorem witness_NewDataWritten :
    State.reset.regs.openFile = none ∧
    (∀ s, s = (withRegs (running .dataCheck) fun r => { r with fileBytesRemaining := 0 }) →
      s.regs.openFile ≠ none ∧ min s.regs.blockSize.bytes s.regs.fileBytesRemaining.toNat = 0) ∧
    (∀ s, s = (withRegs (running .dataCheck) fun r => { r with fileBytesRemaining := 1 }) →
      s.regs.openFile = some 7 ∧ 1 ≤ min s.regs.blockSize.bytes s.regs.fileBytesRemaining.toNat ∧
      s.writeReply = true) ∧
    (∀ s, s = { running .dataCheck with writeScript := [false] } →
      s.regs.openFile = some 7 ∧ 1 ≤ min s.regs.blockSize.bytes s.regs.fileBytesRemaining.toNat ∧
      s.writeReply = false) :=
  ⟨rfl, by rintro _ rfl; decide, by rintro _ rfl; decide, by rintro _ rfl; decide⟩

theorem witness_HeaderOpensNextFile :
    headerName (headerPayload (running .dataCheck)) = [] ∧
    (∀ s, s = loaded (running .dataCheck) [0x61#8, 0, 0x31#8, 0x30#8] →
      headerName (headerPayload s) ≠ [] ∧ s.openReply = some 8) ∧
    (∀ s, s = { loaded (running .dataCheck) [0x61#8] with openScript := [none] } →
      headerName (headerPayload s) ≠ [] ∧ s.openReply = none) :=
  ⟨by decide, by rintro _ rfl; decide, by rintro _ rfl; decide⟩

theorem witness_DuplicateOnlyAcknowledged :
    (running .dataCheck).regs.blockNumber ≠ (running .dataCheck).regs.expectedBlockNumber ∧
    ¬((running .dataCheck).regs.batchMode = true ∧ (running .dataCheck).regs.blockNumber = 0#8) := by decide

/-- A NUL at index 0 with no digit after it; a NUL at index 1 and two digits; a NUL at index 127, the last;
and a payload without NUL. -/
theorem witness_HeaderFieldsParsed :
    (0 < State.reset.regs.blockSize.bytes ∧ State.reset.readByte 0 = 0#8 ∧ 0 + 1 + 0 ≤ State.reset.regs.blockSize.bytes) ∧
    (∀ s, s = loaded (running .dataCheck) [0x61#8, 0, 0x31#8, 0x30#8] →
      1 < s.regs.blockSize.bytes ∧ s.readByte 1 = 0#8 ∧ s.readByte 0 ≠ 0#8 ∧
      s.readByte 2 = 0x31#8 ∧ s.readByte 3 = 0x30#8 ∧ s.readByte 4 = 0#8) ∧
    (∀ s, s = loaded (running .dataCheck) (List.replicate 127 0x41#8) →
      127 < s.regs.blockSize.bytes ∧ s.readByte 127 = 0#8 ∧ (∀ i, i < 127 → s.readByte i ≠ 0#8) ∧
      127 + 1 + 0 ≤ s.regs.blockSize.bytes) ∧
    (∀ s, s = loaded (running .dataCheck) (List.replicate 128 0x41#8) →
      ∀ i, i < s.regs.blockSize.bytes → s.readByte i ≠ 0#8) :=
  ⟨by decide, by rintro _ rfl; decide, by rintro _ rfl; decide, by rintro _ rfl; decide⟩

/-- V-HDR-18: the digits run to the payload's last index. -/
theorem witness_HeaderFieldsParsed_end : ∀ s, s = loaded (running .dataCheck) (List.replicate 120 0x41#8 ++
      [0, 0x31#8, 0x32#8, 0x33#8, 0x34#8, 0x35#8, 0x36#8, 0x37#8]) →
    120 < s.regs.blockSize.bytes ∧ s.readByte 120 = 0#8 ∧ (∀ i, i < 120 → s.readByte i ≠ 0#8) ∧
    120 + 1 + 7 ≤ s.regs.blockSize.bytes ∧ ¬ 120 + 1 + 7 < s.regs.blockSize.bytes ∧
    ∀ i, i < 7 → 0x30 ≤ (s.readByte (120 + 1 + i)).toNat ∧ (s.readByte (120 + 1 + i)).toNat ≤ 0x39 := by
  rintro _ rfl; decide

theorem witness_FileOpenCallsInOrder :
    (running .blockStart).openReply = some 8 ∧
    ({ running .blockStart with openScript := [none] } : State).openReply = none ∧
    (running .idle).regs.state = .idle := ⟨rfl, rfl, rfl⟩

theorem witness_StartBatchSession :
    State.reset.regs.state = .idle ∧ (Reply.c : Reply) = (if true then .c else .nak) ∧
    (Reply.nak : Reply) = (if false then .c else .nak) := ⟨rfl, rfl, rfl⟩

/-- A name of 70 bytes, both answers of storage. -/
theorem witness_StartFileSession :
    State.reset.regs.state = .idle ∧ (Reply.nak : Reply) = (if false then .c else .nak) ∧
    List.replicate 64 0x61#8 = (List.replicate 70 0x61#8).take 64 ∧
    ({ State.reset with openScript := [some 1] } : State).openReply = some 1 ∧
    ({ State.reset with openScript := [none] } : State).openReply = none := ⟨rfl, rfl, rfl, rfl, rfl⟩

theorem witness_StartRefusedWhileRunning : (running .purge).regs.state ≠ .idle := by decide

/-- The deadline is 10: `now = 10` is the last moment without a timeout, 11 the first with one. -/
theorem witness_PollWithoutBytes :
    State.reset.regs.state = .idle ∧ (running .dataBlock).regs.state ≠ .idle ∧ (running .dataBlock).rx = [] ∧
    10 ≤ (running .dataBlock).regs.deadline ∧ (running .dataBlock).regs.deadline < 11 := by decide

theorem witness_PollRunsDecodedBytes :
    (queued (running .blockStart) [0x01#8]).regs.state ≠ .idle ∧
    (queued (running .blockStart) [0x01#8]).rx ≠ [] := by decide

theorem witness_PollTakesWholeBudget :
    (∃ t, exec (.poll 5) (queued (running .blockStart) [0x01#8, 0x01#8]) = .next t) ∧
    (queued (running .blockStart) [0x01#8, 0x01#8]).regs.state ≠ .idle := ⟨⟨_, rfl⟩, by decide⟩

/-- The invariant holds in a session's rest state and at the last payload byte of a 1024-byte block. -/
theorem witness_invariant : (running .blockStart).Inv ∧ nearEnd.Inv ∧ State.reset.Inv :=
  ⟨by constructor <;> decide, by constructor <;> decide, by constructor <;> decide⟩

theorem witness_PollAlwaysCompletes : (queued (running .blockStart) [0x01#8, 0x01#8]).Inv := by
  constructor <;> decide

theorem witness_SplitDeliveryIsEqual :
    [0x01#8] ≠ ([] : List Byte) ∧
    ∃ u t t', exec (.poll 3) { running .blockStart with rx := [0x01#8] } = .next u ∧
      exec (.poll 3) { u with rx := u.rx ++ [0x01#8, 0xFE#8] } = .next t' ∧
      exec (.poll 3) { running .blockStart with rx := [0x01#8] ++ [0x01#8, 0xFE#8] } = .next t :=
  ⟨by decide, _, _, _, rfl, rfl, rfl⟩

theorem witness_DecodeEncodeRoundTrip :
    (Instr.start (2 ^ 64 - 1) true false true abc 0xFFFFFFFF#32).wellFormed = true ∧
    (Instr.start 0 true false true abc 0).format ≠ .internal ∧
    (Instr.bsOther 0xFF#8 0).wellFormed = true ∧ (Instr.bsOther 0xFF#8 0).format ≠ .internal ∧
    Instr.c.wellFormed = true ∧ Instr.c.format ≠ .internal := by decide

theorem witness_WireDecodeTotal : FsmState.purge ≠ .idle ∧ (2 ^ 64 - 1 : Nat) < 2 ^ 64 := by decide

/-- A session in which the last command came at 10. -/
def atTen (st : FsmState) : State := { running st with lastNow := 10 }

/-- Without a `now`; with one in `Idle` at an earlier time, at the last command's time, and one tick before. -/
theorem witness_StepRunsHostCommand :
    (Instr.query.wellFormed = true ∧ Instr.query.format = .host ∧ (∀ now, Instr.query ≠ .poll now) ∧
      (∀ now crc batch cap1k name size, Instr.query ≠ .start now crc batch cap1k name size) ∧
      (given (atTen .purge) (.command (encode .query ++ [0xFF#8]))).inputs =
        .command (encode .query ++ [0xFF#8]) :: []) ∧
    ((Instr.poll 10).wellFormed = true ∧ (Instr.poll 10).format = .host ∧ (atTen .idle).regs.state = .idle ∧
      (atTen .purge).lastNow ≤ 10 ∧ (given (atTen .purge) (.command (encode (.poll 10)))).inputs =
        .command (encode (.poll 10) ++ []) :: []) ∧
    ((Instr.poll 9).wellFormed = true ∧ (Instr.poll 9).format = .host ∧ (atTen .purge).regs.state ≠ .idle ∧
      9 < (atTen .purge).lastNow) :=
  ⟨⟨by decide, rfl, by simp, by simp, rfl⟩, ⟨by decide, rfl, rfl, by decide, rfl⟩, by decide, rfl, by decide, by decide⟩

/-- U8: a POLL at 9 after a command at 10 is rejected, one at 10 is run (its deadline is 10: no timeout). -/
theorem test_step_decreasing_now :
    sees (step (given (atTen .purge) (.command (encode (.poll 9)))))
      (fun t => t == { atTen .purge with result := .rejected }) = true ∧
    sees (step (given (atTen .purge) (.command (encode (.poll 10)))))
      (fun t => t.calls == [.rxAvailable 0] && t.lastNow == 10) = true := by decide

theorem witness_StepRunsOtherInputs :
    State.reset.inputs = [] ∧ (given State.reset (.arrive abc)).inputs = [.arrive abc] ∧
    (given State.reset (.taken 1)).inputs = [.taken 1] ∧
    (given State.reset (.openAnswer none)).inputs = [.openAnswer none] ∧
    (given State.reset (.writeAnswer true)).inputs = [.writeAnswer true] ∧
    (given State.reset .powerOn).inputs = [.powerOn] ∧
    (given State.reset (.command [0x08#8])).inputs = [.command [0x08#8]] ∧
    decodeHost [0x08#8] = .error .commandHighBits := ⟨rfl, rfl, rfl, rfl, rfl, rfl, rfl, rfl⟩

/-- A START record in `Idle`, and a POLL that takes the last payload byte. -/
theorem witness_StepKeepsInvariant :
    (State.reset.Inv ∧ ∃ t, step (given State.reset (.command (encode (.start 0 true true true [] 0)))) = .next t) ∧
    (nearEnd.Inv ∧ ∃ t, step (given (queued nearEnd [0x61#8]) (.command (encode (.poll 5)))) = .next t) :=
  ⟨⟨witness_invariant.2.2, _, rfl⟩, ⟨witness_invariant.2.1, _, rfl⟩⟩

/-- The first payload byte of a block waits, and a POLL. -/
def firstByteWaits : State :=
  given (queued (withRegs (running .dataBlock) fun r => { r with bytesRemainingInBlock := 128 }) [0x61#8])
    (.command (encode (.poll 5)))

/-- The check value of no bytes is 0. -/
theorem witness_StepKeepsRunningCheck :
    firstByteWaits.Inv ∧ firstByteWaits.RunningCheck ∧ ∃ t, step firstByteWaits = .next t :=
  ⟨by constructor <;> decide, fun _ => rfl, _, rfl⟩

theorem witness_StepGoesOn : (given State.reset (.command [0x08#8])).Inv := witness_invariant.2.2

/-- A START waits while a session runs. -/
def startWaits : State := given (running .blockStart) (.command (encode (.start 1 true true true [] 0)))

theorem witness_ModesFixedForSession :
    (∃ t, step startWaits = .next t) ∧ startWaits.regs.state ≠ .idle ∧
    startWaits.inputs.head? ≠ some .powerOn := ⟨⟨_, rfl⟩, by decide, by decide⟩

/-- The last payload byte of a 1024-byte block waits, and a POLL. -/
def lastByteWaits : State := given (queued nearEnd [0x61#8]) (.command (encode (.poll 5)))

/-- The byte stored at index 1023, and an address of 1024; capacity 128, and an address of 128. -/
theorem witness_StoresStayInCapacity :
    (lastByteWaits.Inv ∧ (∃ t, step lastByteWaits = .next t) ∧ lastByteWaits.inputs.head? ≠ some .powerOn ∧
      lastByteWaits.regs.bufferCapacity.bytes ≤ 1024) ∧
    (lastByteWaits.regs.state = .dataBlock ∧ lastByteWaits.regs.blockSize.bytes = 1024) ∧
    (firstByteWaits.Inv ∧ (∃ t, step firstByteWaits = .next t) ∧
      firstByteWaits.inputs.head? ≠ some .powerOn ∧ firstByteWaits.regs.bufferCapacity.bytes ≤ 128) ∧
    ((running .blockStart).regs.bufferCapacity.bytes = 128 ∧ ∃ t, exec (.bsStx 0) (running .blockStart) = .next t ∧
      t.regs.deadline < 0 + Config.tShort + 1 ∧ t.rx = []) :=
  ⟨⟨witness_invariant.2.1, ⟨_, rfl⟩, by decide, by decide⟩, ⟨rfl, rfl⟩,
    ⟨witness_StepKeepsRunningCheck.1, ⟨_, rfl⟩, by decide, by decide⟩,
    rfl, _, rfl, Nat.lt_succ_self _, rfl⟩

theorem witness_OnlyDataBytesAreStored :
    (∀ b now, Instr.vNak ≠ .dbByte b now) ∧ (∀ now, Instr.vNak ≠ .poll now) ∧ Instr.vNak ≠ .rst ∧
    ∃ t, exec .vNak nearEnd = .next t := ⟨by simp, by simp, by simp, _, rfl⟩

theorem witness_OnlyRepliesAreSent :
    (∃ t, step (given (running .blockStart) (.command (encode (.poll 11)))) = .next t) ∧
    ∀ n, (given (running .blockStart) (.command (encode (.poll 11)))).inputs.head? ≠ some (.taken n) :=
  ⟨⟨_, rfl⟩, by simp [given]⟩

/-! Whole blocks: a checksum session with the block waiting, P1 of 95_test_vectors.md. -/

/-- A whole block in the queue of a session that expects it. -/
def blockQueued (n : Byte) (p q : List Byte) : State :=
  queued (running .blockStart)
    (0x01#8 :: n :: ~~~n :: (p ++ trailerOf false (payloadCheck false q)))

theorem blockQueued_waits (n : Byte) (p q : List Byte) (h : p.length = 128) :
    BlockWaits (blockQueued n p q) .len128 n p q :=
  ⟨witness_invariant.1, rfl, Nat.le_refl 128, h, rfl⟩

/-- "abc" padded with 1A to 128 bytes, the payload A1. -/
def payloadA1 : List Byte := pad abc 128 0x1A#8

theorem payloadA1_length : payloadA1.length = 128 := by simp [payloadA1, pad, abc]

theorem witness_ValidBlockWrittenOnce :
    BlockWaits (blockQueued 1 payloadA1 payloadA1) .len128 1 payloadA1 payloadA1 ∧
    (blockQueued 1 payloadA1 payloadA1).regs.expectedBlockNumber = 1 ∧
    (blockQueued 1 payloadA1 payloadA1).regs.openFile = some 7 ∧
    (blockQueued 1 payloadA1 payloadA1).writeReply = true :=
  ⟨blockQueued_waits 1 _ _ payloadA1_length, rfl, rfl, rfl⟩

theorem witness_RepeatedBlockNotWritten :
    BlockWaits (blockQueued 0 payloadA1 payloadA1) .len128 0 payloadA1 payloadA1 ∧
    ((0 : Byte).toNat + 1) % 256 = (blockQueued 0 payloadA1 payloadA1).regs.expectedBlockNumber.toNat ∧
    (blockQueued 0 payloadA1 payloadA1).regs.batchMode = false :=
  ⟨blockQueued_waits 0 _ _ payloadA1_length, rfl, rfl⟩

/-- What follows "ab" in A1. -/
def restA1 : List Byte := 0x63#8 :: List.replicate 125 0x1A#8

/-- The second byte 62 arrives as 60, in the expected block and in the one before it. -/
theorem witness_CorruptBlockRefused :
    BlockWaits (blockQueued 1 ([0x61#8] ++ 0x60#8 :: restA1) ([0x61#8] ++ 0x62#8 :: restA1)) .len128 1
      ([0x61#8] ++ 0x60#8 :: restA1) ([0x61#8] ++ 0x62#8 :: restA1) ∧ (0x62#8 : Byte) ≠ 0x60#8 ∧
    (1 : Byte) = (blockQueued 1 ([0x61#8] ++ 0x60#8 :: restA1) []).regs.expectedBlockNumber ∧
    BlockWaits (blockQueued 0 ([0x61#8] ++ 0x60#8 :: restA1) ([0x61#8] ++ 0x62#8 :: restA1)) .len128 0
      ([0x61#8] ++ 0x60#8 :: restA1) ([0x61#8] ++ 0x62#8 :: restA1) ∧
    ((0 : Byte).toNat + 1) % 256 =
      (blockQueued 0 ([0x61#8] ++ 0x60#8 :: restA1) []).regs.expectedBlockNumber.toNat :=
  ⟨blockQueued_waits 1 _ _ (by simp [restA1]), by decide, rfl, blockQueued_waits 0 _ _ (by simp [restA1]), rfl⟩

end Sys2Proof.Tests
end

section
/-! PROOFS. ASM (41_block_assembler.md): what DB.BYTE does to the buffer, its counters and `acc`. -/

namespace Sys2Proof.Machine

/-- ENG.UPD moves `acc` only, by the update of the session's mode (R125). -/
theorem exec_engUpd (b : Byte) (s : State) :
    exec (.engUpd b) s = .next (setAcc (engineByte s.regs.crcMode s.regs.acc b) s) := rfl

/-- DB.BYTE inside the physical buffer, register by register (R140). -/
theorem exec_dbByte_of_lt {b : Byte} {now : Time} {s : State} (h : s.regs.cursor.toNat < Config.bufPhys) :
    exec (.dbByte b now) s = .next { s with regs := { s.regs with
      deadline := now + Config.tShort
      receiveBuffer := Memory.write s.regs.receiveBuffer s.regs.cursor.toNat b
      cursor := s.regs.cursor + 1
      bytesRemainingInBlock := s.regs.bytesRemainingInBlock - 1
      acc := engineByte s.regs.crcMode s.regs.acc b
      state := if s.regs.bytesRemainingInBlock - 1 = 0 then .dataCheck else s.regs.state } } := by
  have hexec : exec (.dbByte b now) s = execDbByte b now s := rfl
  rw [hexec, execDbByte, if_pos h, endOfPayload_eq]
  rfl

/-- Moving an index inside the physical buffer on does not wrap `cursor`. -/
theorem toNat_cursor_succ {c : BitVec 11} (h : c.toNat < Config.bufPhys) : (c + 1).toNat = c.toNat + 1 := by
  have h' : c.toNat < 1024 := h
  bv_omega

/-- Counting down from a count above 0 does not wrap it. -/
theorem toNat_count_pred {n : BitVec 11} (h : 1 ≤ n.toNat) : (n - 1).toNat = n.toNat - 1 := by
  bv_omega

/-- The byte counted down is the last one exactly when one was left. -/
theorem count_pred_eq_zero_iff (n : BitVec 11) : n - 1 = 0 ↔ n.toNat = 1 := by
  bv_omega

/-- Settles O10: the buffer law of a write (`Memory.read_write_self`, `Memory.read_write_ne`) at `cursor`,
and the counters that do not wrap under R140's precondition. -/
theorem dataByteStored : Obligations.DataByteStored := by
  unfold Obligations.DataByteStored
  intro b now s hwf hcursor hcount
  refine ⟨_, _, exec_dbByte_of_lt hcursor, exec_engUpd b s, ?_, ?_, ?_, ?_, ?_⟩
  · exact Memory.read_write_self hwf _ b
  · exact fun _ ha => Memory.read_write_ne _ b ha
  · exact toNat_cursor_succ hcursor
  · exact toNat_count_pred hcount
  · simp only [count_pred_eq_zero_iff, setAcc_regs]

end Sys2Proof.Machine
end

section
/-! PROOFS. FSM (42_protocol_fsm.md): the header and number bytes, the trailer comparison that leads to a
verdict, and the verdicts that write nothing. -/

namespace Sys2Proof.Machine

/-! ### The header byte and the number byte -/

/-- BS.SOH, register by register (R163). -/
theorem exec_bsSoh (now : Time) (s : State) :
    exec (.bsSoh now) s = .next { s with regs := { s.regs with
      blockSize := .len128, state := .blockNumber, deadline := now + Config.tShort } } := rfl

/-- BN.BYTE, register by register (R167). -/
theorem exec_bnByte (b : Byte) (now : Time) (s : State) :
    exec (.bnByte b now) s = .next { s with regs := { s.regs with
      blockNumber := b, state := .blockNumberCheck, deadline := now + Config.tShort } } := rfl

/-- Settles O15: `exec_bsSoh` is the statement. -/
theorem sohStartsShortBlock : Obligations.SohStartsShortBlock := by
  unfold Obligations.SohStartsShortBlock
  exact exec_bsSoh

/-- Settles O19: `exec_bnByte` is the statement. -/
theorem blockNumberRecorded : Obligations.BlockNumberRecorded := by
  unfold Obligations.BlockNumberRecorded
  exact exec_bnByte

/-! ### The trailer comparison, as numbers -/

/-- The checksum trailer matches when it is `acc` modulo 256 (R173). -/
theorem checksumMatches_iff (acc : BitVec 16) (b : Byte) :
    checksumMatches acc b = true ↔ b.toNat = acc.toNat % 256 := by
  rw [checksumMatches, beq_iff_eq, ← BitVec.toNat_inj, BitVec.toNat_setWidth]

/-- The two trailer bytes as one number, the first the high one (30_encoding.md R102 c). -/
theorem receivedCrc_toNat (hi b : Byte) : (receivedCrc hi b).toNat = 256 * hi.toNat + b.toNat := by
  rw [receivedCrc, BitVec.toNat_append, ← Nat.shiftLeft_add_eq_or_of_lt b.isLt, Nat.shiftLeft_eq,
    Nat.mul_comm]

/-- The CRC trailer matches when its two bytes, high first, are `acc` (R174). -/
theorem crcMatches_iff (acc : BitVec 16) (hi b : Byte) :
    crcMatches acc hi b = true ↔ 256 * hi.toNat + b.toNat = acc.toNat := by
  rw [crcMatches, beq_iff_eq, ← BitVec.toNat_inj, receivedCrc_toNat]

/-! ### From the comparison to the verdict -/

/-- `Verdict(match)` is the operation VERDICT on a match and V.NAK on a mismatch (R173, R174). -/
theorem check_eq_exec (m : Bool) (now : Time) (s : State) :
    check m now s = exec (if m = true then .verdict now else .vNak) s := by
  cases m <;> rfl

/-- `Verdict(match)` completes as the operation that the comparison, said as `p`, selects. -/
theorem check_completes_as_exec {m : Bool} {p : Prop} [Decidable p] (hp : m = true ↔ p)
    (now : Time) (s : State) :
    ∃ t, check m now s = .next t ∧ exec (if p then .verdict now else .vNak) s = .next t := by
  obtain ⟨t, ht⟩ := check_next s m now
  refine ⟨t, ht, ?_⟩
  rw [← ht, check_eq_exec]
  simp only [hp]

/-- DC.BYTE in CRC mode keeps the high trailer byte (R173). -/
theorem exec_dcByte_of_crc {b : Byte} {now : Time} {s : State} (h : s.regs.crcMode = true) :
    exec (.dcByte b now) s = .next { s with regs := { s.regs with
      trailerHi := b, state := .dataCheckCrc, deadline := now + Config.tShort } } :=
  if_pos h

/-- DC.BYTE in checksum mode compares the byte with `acc` (R173). -/
theorem exec_dcByte_of_sum {b : Byte} {now : Time} {s : State} (h : s.regs.crcMode = false) :
    exec (.dcByte b now) s = check (checksumMatches s.regs.acc b) now (preamble now s) :=
  if_neg (Bool.eq_false_iff.1 h)

/-- DCC.BYTE compares both trailer bytes with `acc` (R174). -/
theorem exec_dccByte (b : Byte) (now : Time) (s : State) :
    exec (.dccByte b now) s =
      check (crcMatches s.regs.acc s.regs.trailerHi b) now (preamble now s) := rfl

/-- Settles O21: by the session's mode; in checksum mode the comparison, as numbers, selects the verdict. -/
theorem firstTrailerByte : Obligations.FirstTrailerByte := by
  unfold Obligations.FirstTrailerByte
  intro b now s
  refine ⟨exec_dcByte_of_crc, fun hsum => ?_⟩
  rw [exec_dcByte_of_sum hsum]
  exact check_completes_as_exec (checksumMatches_iff s.regs.acc b) now (preamble now s)

/-- Settles O22: the 16-bit comparison, as numbers, selects the verdict. -/
theorem crcTrailerCompared : Obligations.CrcTrailerCompared := by
  unfold Obligations.CrcTrailerCompared
  intro b now s
  rw [exec_dccByte]
  exact check_completes_as_exec (crcMatches_iff s.regs.acc s.regs.trailerHi b) now (preamble now s)

/-! ### The verdicts -/

/-- V.NAK is the validation fault (60_exceptions.md R274). -/
theorem exec_vNak (s : State) : exec .vNak s = .next (raise .validation s) := rfl

/-- Settles O23: by what the validation fault does (`raise_validation`). -/
theorem mismatchSendsNak : Obligations.MismatchSendsNak := by
  unfold Obligations.MismatchSendsNak
  intro s
  rw [exec_vNak, raise_validation]
  rfl

/-- V.DUP only returns to `BlockStart` (R179). -/
theorem exec_vDup (s : State) : exec .vDup s = .next (goto .blockStart s) := rfl

/-- VERDICT is the outcome that `selectVerdict` names, run after the ACK (R176). -/
theorem exec_verdict (now : Time) (s : State) :
    exec (.verdict now) s =
      exec (selectVerdict s.regs.blockNumber s.regs.expectedBlockNumber s.regs.batchMode now)
        (emitReply .ack s) := by
  have hexec : exec (.verdict now) s = execVerdict now s := rfl
  rw [hexec, execVerdict, selectVerdict]
  split_ifs <;> rfl

/-- A block that is neither the expected one nor a batch header is a duplicate (R179). -/
theorem selectVerdict_of_duplicate {n expected : Byte} {batch : Bool} {now : Time}
    (hne : n ≠ expected) (hhdr : ¬(batch = true ∧ n = 0x00#8)) :
    selectVerdict n expected batch now = .vDup := by
  rw [selectVerdict, if_neg hne, if_neg hhdr]

/-- Settles O27: VERDICT selects V.DUP, which adds only `BlockStart` to the ACK. -/
theorem duplicateOnlyAcknowledged : Obligations.DuplicateOnlyAcknowledged := by
  unfold Obligations.DuplicateOnlyAcknowledged
  intro now s hne hhdr
  refine ⟨exec_vDup s, ?_⟩
  rw [exec_verdict, selectVerdict_of_duplicate hne hhdr, exec_vDup]
  rfl

end Sys2Proof.Machine
end

section
/-! PROOFS. TO (44_timeout_retry.md): what an abort does. -/

namespace Sys2Proof.Machine

/-- Closing the file, if any, adds its one close to the calls and clears `open_file` (R162). -/
theorem closeFile_eq (s : State) :
    closeFile s = { s with
      regs := { s.regs with openFile := none }, calls := s.calls ++ closeCalls s.regs.openFile } := by
  unfold closeFile
  split
  · next h => rw [h, closeCalls, List.append_nil, ← h]
  · next h => rw [h]; rfl

/-- An abort closes the file, then only moves `state` and `pending_reply` (R224). -/
theorem exec_toAbort (s : State) :
    exec .toAbort s = .next (setReply .nak (goto .idle (closeFile s))) := rfl

/-- Settles O33: by what closing the file does (`closeFile_eq`). -/
theorem abortClosesAndRests : Obligations.AbortClosesAndRests := by
  unfold Obligations.AbortClosesAndRests
  intro s
  rw [exec_toAbort, closeFile_eq]
  rfl

end Sys2Proof.Machine
end

section
/-! PROOFS. ASM and the receive buffer (41_block_assembler.md, 20_memory.md): the canonical form is
determined by what it reads as; when DB.BYTE stops. -/

namespace Sys2Proof.Machine

namespace Memory

/-- The canonical form of a list with a first entry: it lies below the others and is listed rightly. -/
theorem wf_cons_iff {k : Nat} {v : Byte} {m : Memory} :
    wf ((k, v) :: m) ↔ (∀ c ∈ m, k < c.1) ∧ v ≠ unlisted ∧ wf m := by
  simp only [wf, List.pairwise_cons, List.forall_mem_cons]
  tauto

theorem read_head (k : Nat) (v : Byte) (m : Memory) : read ((k, v) :: m) k = v := if_pos rfl

theorem read_tail {k a : Nat} (v : Byte) (m : Memory) (h : k ≠ a) : read ((k, v) :: m) a = read m a :=
  if_neg h

/-- The first entry of a canonical list is seen at its index by no list whose entries lie above. -/
theorem read_head_ne_of_below {k : Nat} {v : Byte} {m n : Memory} (hv : v ≠ unlisted)
    (hn : ∀ c ∈ n, k < c.1) : read ((k, v) :: m) k ≠ read n k := by
  rw [read_head, read_of_below n k hn]
  exact hv

/-- The smaller first index of two canonical lists tells them apart. -/
theorem read_ne_of_head_lt {k l : Nat} {v w : Byte} {m n : Memory} (hv : v ≠ unlisted)
    (hn : ∀ c ∈ n, l < c.1) (h : k < l) : read ((k, v) :: m) k ≠ read ((l, w) :: n) k :=
  read_head_ne_of_below hv fun c hc => by
    rcases List.mem_cons.1 hc with rfl | hc
    · exact h
    · exact h.trans (hn c hc)

/-- Two memories in canonical form that read the same are the same list. -/
theorem eq_of_read_eq {m n : Memory} (hm : wf m) (hn : wf n) (h : ∀ a, read m a = read n a) : m = n := by
  induction m generalizing n with
  | nil => cases n with
    | nil => rfl
    | cons d n =>
      obtain ⟨hlow, hd, -⟩ := wf_cons_iff.1 hn
      exact absurd (h d.1).symm (read_head_ne_of_below hd (by simp))
  | cons c m ih => cases n with
    | nil =>
      obtain ⟨hlow, hc, -⟩ := wf_cons_iff.1 hm
      exact absurd (h c.1) (read_head_ne_of_below hc (by simp))
    | cons d n =>
      obtain ⟨k, v⟩ := c
      obtain ⟨l, w⟩ := d
      obtain ⟨hmlow, hv, hmt⟩ := wf_cons_iff.1 hm
      obtain ⟨hnlow, hw, hnt⟩ := wf_cons_iff.1 hn
      rcases Nat.lt_trichotomy k l with hlt | rfl | hgt
      · exact absurd (h k) (read_ne_of_head_lt hv hnlow hlt)
      · have hvw : v = w := by simpa only [read_head] using h k
        have htail : ∀ a, read m a = read n a := fun a => by
          by_cases ha : k = a
          · subst ha
            rw [read_of_below m k hmlow, read_of_below n k hnlow]
          · simpa only [read_tail _ _ ha] using h a
        rw [hvw, ih hmt hnt htail]
      · exact absurd (h l).symm (read_ne_of_head_lt hw hmlow hgt)

/-- Of two writes to one index only the last remains. -/
theorem write_write {m : Memory} (hm : wf m) (a : Nat) (b c : Byte) :
    write (write m a b) a c = write m a c := by
  have hmb := write_wf hm a b
  refine eq_of_read_eq (write_wf hmb a c) (write_wf hm a c) fun i => ?_
  by_cases hi : i = a
  · subst hi
    rw [read_write_self hmb, read_write_self hm]
  · rw [read_write_ne _ c hi, read_write_ne _ b hi, read_write_ne _ c hi]

end Memory

/-- Settles O12: `Memory.eq_of_read_eq`, and `Memory.write_write` by it. -/
theorem bufferFormIsCanonical : Obligations.BufferFormIsCanonical := by
  unfold Obligations.BufferFormIsCanonical
  exact fun m n hm hn => ⟨Memory.eq_of_read_eq hm hn, Memory.write_write hm⟩

/-- DB.BYTE with `cursor` outside the physical buffer (log entry 19). -/
theorem exec_dbByte_of_ge {b : Byte} {now : Time} {s : State} (h : Config.bufPhys ≤ s.regs.cursor.toNat) :
    exec (.dbByte b now) s = .fault .bufferIndexOutOfRange :=
  if_neg (Nat.not_lt.2 h)

/-- Settles O11: the two cases of the index, `exec_dbByte_of_lt` and `exec_dbByte_of_ge`. -/
theorem dataByteStopsOutsideBuffer : Obligations.DataByteStopsOutsideBuffer := by
  unfold Obligations.DataByteStopsOutsideBuffer
  intro b now s
  refine ⟨fun hstop => Nat.le_of_not_lt fun hlt => ?_, exec_dbByte_of_ge⟩
  rw [exec_dbByte_of_lt hlt] at hstop
  cases hstop

end Sys2Proof.Machine
end

section
/-! PROOFS. ENG (40_crc_engine.md): the checksum is the byte sum modulo 256; the CRC update is eight
shifts of a value linear in `acc` and the byte, from which its equivalent forms follow. -/

namespace Sys2Proof.Machine

/-! ### The checksum -/

/-- The checksum update as a number (R122). -/
theorem sumByte_toNat (acc : BitVec 16) (b : Byte) :
    (sumByte acc b).toNat = (acc.toNat % 256 + b.toNat) % 256 := by
  simp only [sumByte, BitVec.toNat_setWidth, BitVec.toNat_add]
  omega

/-- Settles O1: `sumByte_toNat` says which value is written. -/
theorem checksumUpdateWraps : Obligations.ChecksumUpdateWraps := by
  unfold Obligations.ChecksumUpdateWraps
  intro b s
  have hacc : sumByte s.regs.acc b = BitVec.ofNat 16 ((s.regs.acc.toNat % 256 + b.toNat) % 256) := by
    rw [← sumByte_toNat, BitVec.ofNat_toNat, BitVec.setWidth_eq]
  have hexec : exec (.accSum b) s = .next (setAcc (sumByte s.regs.acc b) s) := rfl
  rw [hexec, hacc]
  rfl

/-- Folding the checksum update from a value below 256 adds the bytes modulo 256. -/
theorem foldl_sumByte_toNat (p : List Byte) : ∀ acc : BitVec 16, acc.toNat < 256 →
    (p.foldl sumByte acc).toNat = (acc.toNat + (p.map BitVec.toNat).sum) % 256 := by
  induction p with
  | nil => intro acc h; simpa using (Nat.mod_eq_of_lt h).symm
  | cons b p ih =>
    intro acc h
    have hb := sumByte_toNat acc b
    rw [List.foldl_cons, ih _ (by omega), hb, List.map_cons, List.sum_cons]
    omega

/-- In checksum mode the check value is the byte sum modulo 256 (R122). -/
theorem payloadCheck_sum_toNat (p : List Byte) :
    (payloadCheck false p).toNat = (p.map BitVec.toNat).sum % 256 := by
  have hfold := foldl_sumByte_toNat p 0 (by decide)
  rwa [show (0 : BitVec 16).toNat = 0 from rfl, Nat.zero_add] at hfold

/-- Settles O2: `payloadCheck_sum_toNat` is the statement. -/
theorem checksumIsSumOfBytes : Obligations.ChecksumIsSumOfBytes := by
  unfold Obligations.ChecksumIsSumOfBytes
  exact payloadCheck_sum_toNat

/-! ### One shift of the CRC -/

/-- An iteration takes the top bit of what it shifts in beside `x` for its input bit. -/
theorem crcShift_xor_eq_crcBit (x z : BitVec 16) :
    crcShift (x ^^^ z) = crcBit x (z.getLsbD 15) ^^^ (z <<< 1) := by
  simp only [crcShift, crcBit, BitVec.getLsbD_xor, BitVec.shiftLeft_xor_distrib]
  split
  · ac_rfl
  · rfl

/-- The shift is linear. -/
theorem crcShift_xor (x y : BitVec 16) : crcShift (x ^^^ y) = crcShift x ^^^ crcShift y := by
  have hcancel : x <<< 1 ^^^ 0x1021#16 ^^^ (y <<< 1 ^^^ 0x1021#16) = x <<< 1 ^^^ y <<< 1 := by
    calc x <<< 1 ^^^ 0x1021#16 ^^^ (y <<< 1 ^^^ 0x1021#16)
        = x <<< 1 ^^^ y <<< 1 ^^^ (0x1021#16 ^^^ 0x1021#16) := by ac_rfl
      _ = x <<< 1 ^^^ y <<< 1 := by rw [BitVec.xor_self, BitVec.xor_zero]
  rw [crcShift_xor_eq_crcBit]
  unfold crcShift crcBit
  cases x.getLsbD 15 <;> cases y.getLsbD 15
  · rfl
  · change x <<< 1 ^^^ 0x1021#16 ^^^ y <<< 1 = x <<< 1 ^^^ (y <<< 1 ^^^ 0x1021#16)
    ac_rfl
  · rfl
  · exact hcancel.symm

theorem crcShift_iterate_xor (n : Nat) (x y : BitVec 16) :
    crcShift^[n] (x ^^^ y) = crcShift^[n] x ^^^ crcShift^[n] y := by
  induction n generalizing x y with
  | zero => rfl
  | succ n ih => rw [Function.iterate_succ_apply, crcShift_xor, ih]; rfl

/-- The top bit shifted out is the bottom bit of the result: 0x1021 is odd. -/
theorem crcShift_getLsbD_zero (x : BitVec 16) : (crcShift x).getLsbD 0 = x.getLsbD 15 := by
  unfold crcShift
  split
  · next h => simp [h]
  · next h => simpa using h

theorem crcShift_injective : Function.Injective crcShift := by
  intro x y h
  have htop : x.getLsbD 15 = y.getLsbD 15 := by
    rw [← crcShift_getLsbD_zero, h, crcShift_getLsbD_zero]
  have hshift : x <<< 1 = y <<< 1 := by
    unfold crcShift at h
    rw [htop] at h
    split at h
    · exact BitVec.xor_right_inj (0x1021#16) |>.1 (by simpa [BitVec.xor_comm] using h)
    · exact h
  refine BitVec.eq_of_getLsbD_eq fun i hi => ?_
  rcases Nat.lt_or_ge i 15 with hlt | hge
  · have hi' : i + 1 < 16 := by omega
    have hbit := congrArg (·.getLsbD (i + 1)) hshift
    simpa only [BitVec.getLsbD_shiftLeft, hi', decide_true, Bool.true_and, Nat.add_sub_cancel,
      Nat.not_lt.2 (Nat.le_add_left 1 i), decide_false, Bool.not_false] using hbit
  · obtain rfl : i = 15 := by omega
    exact htop

/-! ### The CRC of a byte -/

/-- The iterations for the `n` low bits of a byte are `n` shifts of `x` with these bits XORed to its top. -/
theorem crcBits_eq_crcShift_iterate (b : Byte) (n : Nat) (hn : n ≤ 8) (x : BitVec 16) :
    crcBits b n x = crcShift^[n] (x ^^^ (b.setWidth 16 <<< (16 - n))) := by
  induction n generalizing x with
  | zero => simp [crcBits]
  | succ n ih =>
    have htop : (b.setWidth 16 <<< (16 - (n + 1))).getLsbD 15 = b.getLsbD n := by
      have hi : 15 - (16 - (n + 1)) = n := by omega
      have hge : ¬ 15 < 16 - (n + 1) := by omega
      have hn16 : n < 16 := by omega
      rw [BitVec.getLsbD_shiftLeft, BitVec.getLsbD_setWidth, hi]
      simp only [hge, hn16, decide_true, decide_false, Bool.not_false, Bool.true_and,
        show (15 : Nat) < 16 from by decide]
    have hshift : (b.setWidth 16 <<< (16 - (n + 1))) <<< 1 = b.setWidth 16 <<< (16 - n) := by
      rw [← BitVec.shiftLeft_add]
      congr 1
      omega
    rw [crcBits, ih (by omega), Function.iterate_succ_apply, crcShift_xor_eq_crcBit, htop, hshift]

/-- The byte-wise pre-XOR form of the CRC update (R124 a). -/
theorem crcByte_eq_crcShift_iterate (acc : BitVec 16) (b : Byte) :
    crcByte acc b = crcShift^[8] (acc ^^^ (b.setWidth 16 <<< 8)) :=
  crcBits_eq_crcShift_iterate b 8 (Nat.le_refl 8) acc

/-- The CRC update is linear in `acc` and the byte together. -/
theorem crcByte_xor (acc acc' : BitVec 16) (b b' : Byte) :
    crcByte (acc ^^^ acc') (b ^^^ b') = crcByte acc b ^^^ crcByte acc' b' := by
  have hsplit : acc ^^^ acc' ^^^ ((b ^^^ b').setWidth 16 <<< 8) =
      (acc ^^^ (b.setWidth 16 <<< 8)) ^^^ (acc' ^^^ (b'.setWidth 16 <<< 8)) := by
    rw [BitVec.setWidth_xor, BitVec.shiftLeft_xor_distrib]
    ac_rfl
  simp only [crcByte_eq_crcShift_iterate, hsplit, crcShift_iterate_xor]

/-- A value of eight bits is shifted out by eight shifts with no XOR. -/
theorem crcShift_iterate_low (v : Byte) (n : Nat) (hn : n ≤ 8) :
    crcShift^[n] (v.setWidth 16) = v.setWidth 16 <<< n := by
  induction n with
  | zero => simp
  | succ n ih =>
    have htop : (v.setWidth 16 <<< n).getLsbD 15 = false := by
      have hv : v.getLsbD (15 - n) = false := BitVec.getLsbD_of_ge v _ (by omega)
      simp only [BitVec.getLsbD_shiftLeft, BitVec.getLsbD_setWidth, hv, Bool.and_false]
    rw [Function.iterate_succ_apply', ih (by omega), crcShift, htop,
      if_neg Bool.false_ne_true, ← BitVec.shiftLeft_add]

/-- The table form of the CRC update (R124 b). -/
theorem crcByte_eq_table (acc : BitVec 16) (b : Byte) :
    crcByte acc b = (acc <<< 8) ^^^ crcByte 0#16 (acc.extractLsb' 8 8 ^^^ b) := by
  have hhalves : acc ^^^ (b.setWidth 16 <<< 8) = (acc.setWidth 8).setWidth 16 ^^^
      (0#16 ^^^ ((acc.extractLsb' 8 8 ^^^ b).setWidth 16 <<< 8)) := by
    refine BitVec.eq_of_getLsbD_eq fun i hi => ?_
    rcases Nat.lt_or_ge i 8 with hlt | hge
    · simp [hi, hlt]
    · have hi' : i - 8 < 8 := by omega
      have hadd : 8 + (i - 8) = i := by omega
      have hnot : ¬ i < 8 := by omega
      simp [hi, hi', hadd, hnot]
  have hlow : (acc.setWidth 8).setWidth 16 <<< 8 = acc <<< 8 := by
    refine BitVec.eq_of_getLsbD_eq fun i hi => ?_
    have hi' : i - 8 < 8 := by omega
    have hi'' : i - 8 < 16 := by omega
    simp only [BitVec.getLsbD_shiftLeft, BitVec.getLsbD_setWidth, hi', hi'', decide_true, Bool.true_and]
  rw [crcByte_eq_crcShift_iterate, hhalves, crcShift_iterate_xor, crcShift_iterate_low _ 8 (Nat.le_refl 8),
    hlow, crcByte_eq_crcShift_iterate]

/-- Settles O3: `crcByte_eq_crcShift_iterate` says which value is written. -/
theorem crcUpdatePreXorForm : Obligations.CrcUpdatePreXorForm := by
  unfold Obligations.CrcUpdatePreXorForm
  intro b s
  rw [← crcByte_eq_crcShift_iterate]
  rfl

/-- Settles O4: `crcByte_eq_table` is the statement. -/
theorem crcTableForm : Obligations.CrcTableForm := by
  unfold Obligations.CrcTableForm
  exact crcByte_eq_table

/-! ### The CRC of a payload -/

theorem engineByte_crc : engineByte true = crcByte := rfl

theorem foldl_crcByte_xor (p q : List Byte) (h : p.length = q.length) (acc acc' : BitVec 16) :
    (p.zipWith (· ^^^ ·) q).foldl crcByte (acc ^^^ acc') = p.foldl crcByte acc ^^^ q.foldl crcByte acc' := by
  induction p generalizing q acc acc' with
  | nil => cases q with
    | nil => rfl
    | cons => simp at h
  | cons b p ih => cases q with
    | nil => simp at h
    | cons b' q =>
      simp only [List.zipWith_cons_cons, List.foldl_cons, crcByte_xor]
      exact ih q (by simpa using h) _ _

/-- Settles O5: linearity of one update (`crcByte_xor`), by induction on the payloads. -/
theorem crcIsLinear : Obligations.CrcIsLinear := by
  unfold Obligations.CrcIsLinear
  intro p q h
  exact foldl_crcByte_xor p q h 0 0

theorem crcByte_zero_zero : crcByte 0#16 0#8 = 0#16 := by decide

/-- Feeding an accumulator its own two bytes, high first, gives 0: each time the table index is 0. -/
theorem crcByte_own_bytes (c : BitVec 16) :
    crcByte (crcByte c (c.extractLsb' 8 8)) (c.setWidth 8) = 0#16 := by
  have hhi : crcByte c (c.extractLsb' 8 8) = c <<< 8 := by
    rw [crcByte_eq_table, BitVec.xor_self, crcByte_zero_zero, BitVec.xor_zero]
  have hindex : (c <<< 8).extractLsb' 8 8 = c.setWidth 8 := by
    refine BitVec.eq_of_getLsbD_eq fun i hi => ?_
    have hi' : 8 + i < 16 := by omega
    simp only [BitVec.getLsbD_extractLsb', BitVec.getLsbD_shiftLeft, BitVec.getLsbD_setWidth, hi, hi',
      Nat.not_lt.2 (Nat.le_add_right 8 i), decide_true, decide_false, Bool.not_false, Bool.true_and,
      Nat.add_sub_cancel_left]
  have hout : c <<< 8 <<< 8 = 0#16 := by
    rw [← BitVec.shiftLeft_add]
    exact BitVec.shiftLeft_eq_zero (Nat.le_refl 16)
  rw [hhi, crcByte_eq_table, hindex, BitVec.xor_self, crcByte_zero_zero, hout, BitVec.xor_zero]

/-- Settles O6: `crcByte_own_bytes` at the payload's CRC. -/
theorem crcResidueIsZero : Obligations.CrcResidueIsZero := by
  unfold Obligations.CrcResidueIsZero
  intro p
  rw [payloadCheck, List.foldl_append]
  exact crcByte_own_bytes (payloadCheck true p)

/-! ### A changed byte -/

/-- Two updates agree only if `acc` and byte agree after the pre-XOR. -/
theorem crcByte_inj {acc acc' : BitVec 16} {b b' : Byte} (h : crcByte acc b = crcByte acc' b') :
    acc ^^^ (b.setWidth 16 <<< 8) = acc' ^^^ (b'.setWidth 16 <<< 8) := by
  rw [crcByte_eq_crcShift_iterate, crcByte_eq_crcShift_iterate] at h
  exact crcShift_injective.iterate 8 h

theorem crcByte_injective_acc (b : Byte) : Function.Injective (crcByte · b) :=
  fun _ _ h => (BitVec.xor_left_inj _).1 (crcByte_inj h)

theorem crcByte_injective_byte (acc : BitVec 16) : Function.Injective (crcByte acc) := by
  intro b b' h
  have hshift := (BitVec.xor_right_inj acc).1 (crcByte_inj h)
  refine BitVec.eq_of_getLsbD_eq fun i hi => ?_
  have hi' : i + 8 < 16 := by omega
  have hi'' : i < 16 := by omega
  have hbit := congrArg (·.getLsbD (i + 8)) hshift
  simpa [hi', hi''] using hbit

theorem foldl_crcByte_injective (p : List Byte) : Function.Injective fun acc => p.foldl crcByte acc := by
  induction p with
  | nil => exact fun _ _ h => h
  | cons b p ih => exact fun _ _ h => crcByte_injective_acc b (ih h)

/-- Both check arithmetics tell two payloads apart that differ in one byte (R274). -/
theorem payloadCheck_ne_of_byte_ne (crc : Bool) (pre post : List Byte) {b b' : Byte} (h : b ≠ b') :
    payloadCheck crc (pre ++ b :: post) ≠ payloadCheck crc (pre ++ b' :: post) := by
  intro heq
  apply h
  cases crc with
  | true =>
    simp only [payloadCheck, engineByte_crc, List.foldl_append, List.foldl_cons] at heq
    exact crcByte_injective_byte _ (foldl_crcByte_injective post heq)
  | false =>
    have hsum := congrArg BitVec.toNat heq
    simp only [payloadCheck_sum_toNat, List.map_append, List.map_cons, List.sum_append,
      List.sum_cons] at hsum
    exact BitVec.eq_of_toNat_eq (by omega)

/-- Settles O7: `payloadCheck_ne_of_byte_ne` is the statement. -/
theorem singleByteChangeDetected : Obligations.SingleByteChangeDetected := by
  unfold Obligations.SingleByteChangeDetected
  exact fun crc pre post b b' h => payloadCheck_ne_of_byte_ne crc pre post h

/-! ### The engine the mode selects -/

/-- Settles O9: `exec_engUpd` by the mode, and DB.BYTE's `acc` (`exec_dbByte_of_lt`). -/
theorem engineSelectedByMode : Obligations.EngineSelectedByMode := by
  unfold Obligations.EngineSelectedByMode
  refine ⟨fun b s => ⟨_, exec_engUpd b s, fun hcrc => ?_, fun hsum => ?_⟩, fun b now s t u ht hu => ?_⟩
  · rw [hcrc]; rfl
  · rw [hsum]; rfl
  · by_cases hcursor : s.regs.cursor.toNat < Config.bufPhys
    · rw [exec_dbByte_of_lt hcursor] at ht
      rw [exec_engUpd] at hu
      cases ht
      cases hu
      rfl
    · rw [exec_dbByte_of_ge (Nat.le_of_not_lt hcursor)] at ht
      cases ht

end Sys2Proof.Machine
end

section
/-! PROOFS. FSM, HDR's file opening and TMR (42_protocol_fsm.md, 43_batch_header.md,
44_timeout_retry.md): each operation as an update of registers and calls. -/

namespace Sys2Proof.Machine

/-! ### Replies and `Idle` -/

/-- Settles O13: every clause is the definition of the reply operations, in registers and calls. -/
theorem repliesStoredAndSent : Obligations.RepliesStoredAndSent := by
  unfold Obligations.RepliesStoredAndSent
  exact fun s => ⟨fun _ => rfl, fun _ => rfl, rfl, rfl, rfl, rfl⟩

theorem closeFile_of_none {s : State} (h : s.regs.openFile = none) : closeFile s = s := by
  rw [closeFile, h]

/-- ENTERIDLE, in registers and calls (R162). -/
theorem enterIdle_eq (s : State) : enterIdle s = { s with
    regs := { s.regs with openFile := none, state := .idle }
    calls := s.calls ++ closeCalls s.regs.openFile } := by
  rw [enterIdle, closeFile_eq]
  rfl

theorem exec_enterIdle (s : State) : exec .enterIdle s = .next (enterIdle s) := rfl

/-- Settles O14: with no file closing is no update (`closeFile_of_none`), with one it is one call. -/
theorem enterIdleClosesFile : Obligations.EnterIdleClosesFile := by
  unfold Obligations.EnterIdleClosesFile
  refine fun s => ⟨fun hnone => ?_, fun h hsome => ?_⟩
  · rw [exec_enterIdle, enterIdle, closeFile_of_none hnone]
    rfl
  · rw [exec_enterIdle, enterIdle_eq, hsome]
    rfl

/-! ### BlockStart -/

theorem exec_bsStx (now : Time) (s : State) : exec (.bsStx now) s =
    .next (if overCapacity s.regs.bufferCapacity
      then raise .capacity (setBlockSize .len1024 (preamble now s))
      else goto .blockNumber (setBlockSize .len1024 (preamble now s))) := rfl

/-- Settles O16: by the capacity (`exec_bsStx`). -/
theorem stxChecksCapacity : Obligations.StxChecksCapacity := by
  unfold Obligations.StxChecksCapacity
  refine fun now s => ⟨fun hcap => ?_, fun hcap => ?_⟩
  · have hfits : overCapacity s.regs.bufferCapacity = false := by rw [overCapacity, hcap]; rfl
    rw [exec_bsStx, hfits]
    rfl
  · have hover : overCapacity s.regs.bufferCapacity = true := by rw [overCapacity, hcap]; rfl
    rw [exec_bsStx, hover]
    rfl

/-- BS.EOT with no file open (R165). -/
theorem exec_bsEot_of_none {now : Time} {s : State} (h : s.regs.openFile = none) :
    exec (.bsEot now) s = .next (enterIdle (preamble now s)) := by
  have hexec : exec (.bsEot now) s = execBsEot now s := rfl
  rw [hexec, execBsEot, h]

/-- BS.EOT with a file open (R165). -/
theorem exec_bsEot_of_some {now : Time} {s : State} {h : Handle} (hs : s.regs.openFile = some h) :
    exec (.bsEot now) s =
      .next (afterEot (setCompleted true (closeFile (emitReply .ack (preamble now s))))) := by
  have hexec : exec (.bsEot now) s = execBsEot now s := rfl
  rw [hexec, execBsEot, hs]

/-- What a BS.EOT that answered did. -/
theorem exec_bsEot_next {now : Time} {s t : State} (h : exec (.bsEot now) s = .next t) :
    t = enterIdle (preamble now s) ∨
      t = afterEot (setCompleted true (closeFile (emitReply .ack (preamble now s)))) := by
  cases hopen : s.regs.openFile with
  | none =>
    rw [exec_bsEot_of_none hopen] at h
    cases h
    exact .inl rfl
  | some f =>
    rw [exec_bsEot_of_some hopen] at h
    cases h
    exact .inr rfl

theorem toNat_ne_zero_iff {w : Nat} (x : BitVec w) : x.toNat ≠ 0 ↔ x ≠ 0#w := by
  rw [ne_eq, ne_eq, ← BitVec.toNat_inj, BitVec.toNat_ofNat, Nat.zero_mod]

/-- Settles O17: by the open file; with one, closing (`closeFile_eq`) and then `afterEot_eq`. -/
theorem eotClosesFile : Obligations.EotClosesFile := by
  unfold Obligations.EotClosesFile
  refine fun now s => ⟨fun hnone => ?_, fun h hsome => ?_⟩
  · rw [exec_bsEot_of_none hnone, enterIdle, closeFile_of_none (s := preamble now s) hnone]
    rfl
  · have hfile : (emitReply .ack (preamble now s)).regs.openFile = some h := hsome
    rw [exec_bsEot_of_some hsome, afterEot_eq, closeFile_eq, hfile]
    simp only [toNat_ne_zero_iff]
    rfl

/-- Settles O18: both operations are the preamble alone. -/
theorem discardedBytesMoveDeadlineOnly : Obligations.DiscardedBytesMoveDeadlineOnly := by
  unfold Obligations.DiscardedBytesMoveDeadlineOnly
  exact fun b now s => ⟨rfl, rfl⟩

/-! ### BlockNumberCheck -/

/-- The number pair is good when its two bytes make all ones (R170). -/
theorem pairGood_iff (n b : Byte) : pairGood n b = true ↔ n ^^^ b = 0xFF#8 := by
  have hones : n ^^^ ~~~n = 0xFF#8 := by
    rw [BitVec.not_def, BitVec.xor_comm _ n, ← BitVec.xor_assoc, BitVec.xor_self, BitVec.zero_xor]
    rfl
  rw [pairGood, beq_iff_eq, ← hones, BitVec.xor_right_inj]

/-- The expected block, or the one before it modulo 256 (R170). -/
theorem inSequence_iff (n expected : Byte) :
    inSequence n expected = true ↔ n = expected ∨ (n.toNat + 1) % 256 = expected.toNat := by
  have hprev : n = prevBlock expected ↔ (n.toNat + 1) % 256 = expected.toNat := by
    unfold prevBlock
    bv_omega
  rw [inSequence, Bool.or_eq_true, beq_iff_eq, beq_iff_eq, hprev]

theorem exec_bncByte (b : Byte) (now : Time) (s : State) : exec (.bncByte b now) s =
    .next (if pairGood s.regs.blockNumber b then
        if inSequence s.regs.blockNumber s.regs.expectedBlockNumber
        then goto .dataBlock (freshBlock (preamble now s))
        else raise .sequence (freshBlock (preamble now s))
      else raise .framing (preamble now s)) := rfl

/-- Settles O20: the two tests of `exec_bncByte`, as the statement writes them. -/
theorem blockNumberCheckOutcomes : Obligations.BlockNumberCheckOutcomes := by
  unfold Obligations.BlockNumberCheckOutcomes
  intro b now s
  simp only [exec_bncByte, pairGood_iff, inSequence_iff, ne_eq, ite_not]
  split_ifs <;> rfl

/-! ### Verdicts -/

/-- Settles O24: VERDICT completes (`check_next`) as the outcome `selectVerdict` names (`exec_verdict`). -/
theorem verdictPriority : Obligations.VerdictPriority := by
  unfold Obligations.VerdictPriority
  intro now s
  obtain ⟨t, ht⟩ := check_next s true now
  have hexec : exec (.verdict now) s = .next t := ht
  exact ⟨t, hexec, (exec_verdict now s).symm.trans hexec⟩

/-- V.NEW with no file open (R177). -/
theorem exec_vNew_of_none {now : Time} {s : State} (h : s.regs.openFile = none) :
    exec (.vNew now) s = .next (raise .storage (countBlock s)) := by
  have hexec : exec (.vNew now) s = execVNew now s := rfl
  rw [hexec, execVNew, h]

/-- V.NEW with a file open: nothing to write, a good write or a failed one (R177). -/
theorem exec_vNew_of_some {now : Time} {s : State} {h : Handle} (hs : s.regs.openFile = some h) :
    exec (.vNew now) s = .next (
      if writeCount s.regs = 0 then acceptBlock 0 now (countBlock s)
      else if s.writeReply then
        acceptBlock (writeCount s.regs) now (writeBlock h (writeCount s.regs) (countBlock s))
      else raise .storage (writeBlock h (writeCount s.regs) (countBlock s))) := by
  have hexec : exec (.vNew now) s = execVNew now s := rfl
  rw [hexec, execVNew, hs]

/-- What a V.NEW that answered did: a storage failure before or after the write, or a block accepted with or
without one. -/
theorem exec_vNew_next {now : Time} {s t : State} (h : exec (.vNew now) s = .next t) :
    t = raise .storage (countBlock s) ∨ t = acceptBlock 0 now (countBlock s) ∨
      ∃ f k, t = acceptBlock k now (writeBlock f k (countBlock s)) ∨
        t = raise .storage (writeBlock f k (countBlock s)) := by
  cases hopen : s.regs.openFile with
  | none =>
    rw [exec_vNew_of_none hopen] at h
    cases h
    exact .inl rfl
  | some f =>
    rw [exec_vNew_of_some hopen] at h
    cases h
    split_ifs
    · exact .inr (.inl rfl)
    · exact .inr (.inr ⟨f, _, .inl rfl⟩)
    · exact .inr (.inr ⟨f, _, .inr rfl⟩)

/-- Using up a storage answer moves the script and the count of draws, and nothing else. -/
theorem writeDrawn_eq (s : State) : s.writeDrawn = { s with
    writeScript := s.writeScript.tail
    draws := if s.writeScript = [] then s.draws + 1 else s.draws } := by
  obtain ⟨_, _, _, _, _, _, script, _, _, _⟩ := s
  cases script <;> rfl

theorem openDrawn_eq (s : State) : s.openDrawn = { s with
    openScript := s.openScript.tail
    draws := if s.openScript = [] then s.draws + 1 else s.draws } := by
  obtain ⟨_, _, _, _, _, script, _, _, _, _⟩ := s
  cases script <;> rfl

/-- The bytes read from index 0. -/
theorem memRead_zero_eq (n : Nat) (s : State) : memRead 0 n s = (List.range n).map s.readByte := by
  simp only [memRead, Nat.zero_add]

/-- The counted block's write, in registers and calls. -/
theorem writeBlock_countBlock_eq (h : Handle) (k : Nat) (s : State) : writeBlock h k (countBlock s) =
    { s.writeDrawn with
      regs := { s.regs with expectedBlockNumber := s.regs.expectedBlockNumber + 1 }
      calls := s.calls ++ [.stWrite h ((List.range k).map s.readByte) s.writeReply] } := by
  rw [writeBlock, storageWrite, writeDrawn_eq, writeDrawn_eq, memRead_zero_eq]
  rfl

/-- Counting a block, modulo 256. -/
theorem byte_succ_eq (n : Byte) : n + 1 = BitVec.ofNat 8 ((n.toNat + 1) % 256) := by
  bv_omega

/-- Taking off what was written leaves the difference as a number. -/
theorem fileBytes_sub_eq {n : BitVec 32} {k : Nat} (h : k ≤ n.toNat) :
    n - BitVec.ofNat 32 k = BitVec.ofNat 32 (n.toNat - k) := by
  bv_omega

/-- Settles O25: `exec_vNew_of_none` and the three cases of `exec_vNew_of_some`. -/
theorem newDataWritten : Obligations.NewDataWritten := by
  unfold Obligations.NewDataWritten
  intro now s k r hk hr
  have hcount : writeCount s.regs = k := hk.symm
  have hle : k ≤ s.regs.fileBytesRemaining.toNat := hk ▸ Nat.min_le_right _ _
  rw [← byte_succ_eq] at hr
  subst hr
  refine ⟨fun hnone => ?_, fun hsome hzero => ?_, fun h hsome hpos hok => ?_, fun h hsome hpos hfail => ?_⟩
  · rw [exec_vNew_of_none hnone]
    rfl
  · obtain ⟨h, hsome⟩ := Option.ne_none_iff_exists'.1 hsome
    rw [exec_vNew_of_some hsome, if_pos (hcount.trans hzero), acceptBlock]
    simp only [BitVec.ofNat_eq_ofNat, BitVec.sub_zero]
    rfl
  · rw [exec_vNew_of_some hsome, if_neg (by omega), if_pos hok, hcount, writeBlock_countBlock_eq, hok,
      acceptBlock, fileBytes_sub_eq hle]
    rfl
  · rw [exec_vNew_of_some hsome, if_neg (by omega), if_neg (by simp [hfail]), hcount,
      writeBlock_countBlock_eq, hfail]
    rfl

/-! ### Opening a file -/

/-- FILE.OPEN up to the storage answer, in registers and calls (R206). -/
theorem openCurrent_eq (s : State) : openCurrent s = { s.openDrawn with
    regs := { s.regs with openFile := none }
    calls := s.calls ++ (closeCalls s.regs.openFile ++
      [.stRemove s.regs.fileName, .stOpen s.regs.fileName s.openReply]) } := by
  rw [openCurrent, storageOpen, closeFile_eq, openDrawn_eq, openDrawn_eq]
  simp only [State.call, List.append_assoc, List.singleton_append]
  rfl

theorem exec_fileOpen_of_some {s : State} {h : Handle} (hs : s.openReply = some h) :
    exec .fileOpen s = .next (holdFile h (openCurrent s)) := by
  have hexec : exec .fileOpen s = execFileOpen s := rfl
  rw [hexec, execFileOpen, openCurrentReply_eq, hs]

theorem exec_fileOpen_of_none {s : State} (hs : s.openReply = none) :
    exec .fileOpen s = .next (openFailed (openCurrent s)) := by
  have hexec : exec .fileOpen s = execFileOpen s := rfl
  rw [hexec, execFileOpen, openCurrentReply_eq, hs]

/-- Settles O29: by the storage answer, after the calls of `openCurrent_eq`. -/
theorem fileOpenCallsInOrder : Obligations.FileOpenCallsInOrder := by
  unfold Obligations.FileOpenCallsInOrder
  rintro s _ rfl
  refine ⟨fun h hopen => ?_, fun hfail => ?_⟩
  · rw [exec_fileOpen_of_some hopen, openCurrent_eq, hopen]
    rfl
  · rw [exec_fileOpen_of_none hfail, openCurrent_eq, hfail]
    simp only [openFailed]
    split_ifs <;> rfl

/-- Settles O30: the storage fault is its entry (`raise_storage`). -/
theorem storageFaultEntry : Obligations.StorageFaultEntry := by
  unfold Obligations.StorageFaultEntry
  exact fun s => congrArg Host.Outcome.next (raise_storage s)

/-- V.HDR with an empty name (R178). -/
theorem exec_vHdr_of_empty {s : State} (h : headerName (headerPayload s) = []) :
    exec .vHdr s = .next (enterIdle (clearName s)) := by
  have hexec : exec .vHdr s = execVHdr s := rfl
  rw [hexec, execVHdr, if_pos h]

/-- V.HDR with a name that storage opens (R178). -/
theorem exec_vHdr_of_opened {s : State} {h : Handle} (hn : headerName (headerPayload s) ≠ [])
    (hs : s.openReply = some h) :
    exec .vHdr s = .next (awaitFirstBlock (holdFile h (openCurrent (nameNextFile s)))) := by
  have hexec : exec .vHdr s = execVHdr s := rfl
  have hreply : openCurrentReply (nameNextFile s) = some h := (openCurrentReply_eq _).trans hs
  rw [hexec, execVHdr, if_neg hn, hreply]

/-- V.HDR with a name that storage does not open (R178). -/
theorem exec_vHdr_of_failed {s : State} (hn : headerName (headerPayload s) ≠ [])
    (hs : s.openReply = none) :
    exec .vHdr s = .next (raise .storage (openCurrent (nameNextFile s))) := by
  have hexec : exec .vHdr s = execVHdr s := rfl
  have hreply : openCurrentReply (nameNextFile s) = none := (openCurrentReply_eq _).trans hs
  rw [hexec, execVHdr, if_neg hn, hreply]

/-- What a V.HDR that answered did: it ended the batch, or opened the next file, or failed to. -/
theorem exec_vHdr_next {s t : State} (h : exec .vHdr s = .next t) :
    t = enterIdle (clearName s) ∨ (headerName (headerPayload s) ≠ [] ∧
      (t = raise .storage (openCurrent (nameNextFile s)) ∨
        ∃ f, t = awaitFirstBlock (holdFile f (openCurrent (nameNextFile s))))) := by
  by_cases hname : headerName (headerPayload s) = []
  · rw [exec_vHdr_of_empty hname] at h
    cases h
    exact .inl rfl
  · cases hopen : s.openReply with
    | none =>
      rw [exec_vHdr_of_failed hname hopen] at h
      cases h
      exact .inr ⟨hname, .inl rfl⟩
    | some f =>
      rw [exec_vHdr_of_opened hname hopen] at h
      cases h
      exact .inr ⟨hname, .inr ⟨f, rfl⟩⟩

/-- What a verdict did: the NAK on a mismatch, else after the ACK new data, a header or a duplicate. -/
theorem check_outcome {m : Bool} {now : Time} {s t : State} (h : check m now s = .next t) :
    t = raise .validation s ∨ exec (.vNew now) (emitReply .ack s) = .next t ∨
      exec .vHdr (emitReply .ack s) = .next t ∨ t = goto .blockStart (emitReply .ack s) := by
  rw [check_eq_exec] at h
  cases m with
  | false =>
    cases h
    exact .inl rfl
  | true =>
    rw [if_pos rfl, exec_verdict] at h
    unfold selectVerdict at h
    split_ifs at h
    · exact .inr (.inl h)
    · exact .inr (.inr (.inl h))
    · cases h
      exact .inr (.inr (.inr rfl))

/-- Opening the file a header names, in registers and calls (R178, R206). -/
theorem openCurrent_nameNextFile_eq (s : State) : openCurrent (nameNextFile s) = { s.openDrawn with
    regs := { s.regs with
      currentFilename := storeName (headerName (headerPayload s)) s.regs.currentFilename
      fnameLen := BitVec.ofNat 7 (headerName (headerPayload s)).length
      fileBytesRemaining := headerSize (headerPayload s), openFile := none }
    calls := s.calls ++ (closeCalls s.regs.openFile ++ [.stRemove (headerName (headerPayload s)),
      .stOpen (headerName (headerPayload s)) s.openReply]) } := by
  rw [openCurrent_eq, nameNextFile_fileName, openDrawn_eq, openDrawn_eq]
  rfl

/-- Settles O26: by the name and the storage answer, after the calls of `openCurrent_nameNextFile_eq`. -/
theorem headerOpensNextFile : Obligations.HeaderOpensNextFile := by
  unfold Obligations.HeaderOpensNextFile
  rintro s _ _ rfl rfl
  refine ⟨fun hempty => ?_, fun h hname hopen => ?_, fun hname hfail => ?_⟩
  · rw [exec_vHdr_of_empty hempty, enterIdle_eq]
    rfl
  · rw [exec_vHdr_of_opened hname hopen, openCurrent_nameNextFile_eq, hopen]
    rfl
  · rw [exec_vHdr_of_failed hname hfail, openCurrent_nameNextFile_eq, hfail]
    rfl

/-! ### The timeout step -/

theorem exec_timeout (now : Time) (s : State) : exec (.timeout now) s = .next (timeoutStep now s) := rfl

theorem exec_toRetry (now : Time) (s : State) : exec (.toRetry now) s = .next (timeoutRetry now s) := rfl

/-- Settles O31: by the pending reply, the branch `timeoutStep` takes. -/
theorem timeoutResendsPending : Obligations.TimeoutResendsPending := by
  unfold Obligations.TimeoutResendsPending
  refine fun now s => ⟨_, exec_timeout now s, ?_⟩
  by_cases hcan : s.regs.pendingReply = .can
  · rw [if_pos hcan, timeoutStep, if_pos hcan]
    rfl
  · rw [if_neg hcan, timeoutStep, if_neg hcan]
    rfl

/-- Settles O32: TO.RETRY is its two register writes (`exec_toRetry`). -/
theorem retryWaitsLong : Obligations.RetryWaitsLong := by
  unfold Obligations.RetryWaitsLong
  exact exec_toRetry

end Sys2Proof.Machine
end

section
/-! PROOFS. HDR.PARSE (43_batch_header.md): the name ends at the first NUL, the size is the run of digits
after it. -/

namespace Sys2Proof.Machine

/-! ### A NUL in a payload -/

theorem untilNul_of_no_nul {xs : List Byte} (h : ∀ b ∈ xs, b ≠ 0x00#8) : untilNul xs = xs := by
  induction xs with
  | nil => rfl
  | cons b xs ih =>
    obtain ⟨hb, hxs⟩ := List.forall_mem_cons.1 h
    rw [untilNul, if_neg hb, ih hxs]

theorem afterNul_of_no_nul {xs : List Byte} (h : ∀ b ∈ xs, b ≠ 0x00#8) : afterNul xs = [] := by
  induction xs with
  | nil => rfl
  | cons b xs ih =>
    obtain ⟨hb, hxs⟩ := List.forall_mem_cons.1 h
    rw [afterNul, if_neg hb, ih hxs]

theorem untilNul_append_nul {xs : List Byte} (h : ∀ b ∈ xs, b ≠ 0x00#8) (ys : List Byte) :
    untilNul (xs ++ 0x00#8 :: ys) = xs := by
  induction xs with
  | nil => rfl
  | cons b xs ih =>
    obtain ⟨hb, hxs⟩ := List.forall_mem_cons.1 h
    rw [List.cons_append, untilNul, if_neg hb, ih hxs]

theorem afterNul_append_nul {xs : List Byte} (h : ∀ b ∈ xs, b ≠ 0x00#8) (ys : List Byte) :
    afterNul (xs ++ 0x00#8 :: ys) = ys := by
  induction xs with
  | nil => rfl
  | cons b xs ih =>
    obtain ⟨hb, hxs⟩ := List.forall_mem_cons.1 h
    rw [List.cons_append, afterNul, if_neg hb, ih hxs]

/-! ### A run of digits -/

theorem isDigit_iff (b : Byte) : isDigit b = true ↔ 0x30 ≤ b.toNat ∧ b.toNat ≤ 0x39 := by
  simp only [isDigit, Bool.and_eq_true, decide_eq_true_eq]

/-- Saturating early is no other than saturating late. -/
theorem sat32_step (v d : Nat) : sat32 (sat32 v * 10 + d) = sat32 (v * 10 + d) := by
  simp only [sat32, Config.fsizeMax]
  omega

/-- The scan of a run of digits that the payload's end or another byte ends. -/
theorem decimal_digits (ds rest : List Byte) (hds : ∀ d ∈ ds, isDigit d = true)
    (hrest : ∀ b ∈ rest.head?, isDigit b = false) (v : Nat) :
    decimal (sat32 v) (ds ++ rest) = sat32 (ds.foldl (fun v d => v * 10 + (d.toNat - 0x30)) v) := by
  induction ds generalizing v with
  | nil => cases rest with
    | nil => rfl
    | cons b rest =>
      have hb : isDigit b = false := hrest b rfl
      rw [List.nil_append, decimal, hb, if_neg Bool.false_ne_true, List.foldl_nil]
  | cons d ds ih =>
    obtain ⟨hd, hds⟩ := List.forall_mem_cons.1 hds
    rw [List.cons_append, decimal, if_pos hd, sat32_step, ih hds, List.foldl_cons]

/-! ### Pieces of the buffer -/

theorem memRead_append (a m n : Nat) (s : State) :
    memRead a (m + n) s = memRead a m s ++ memRead (a + m) n s := by
  simp only [memRead, List.range_add, List.map_append, List.map_map]
  congr 1
  exact List.map_congr_left fun i _ => congrArg s.readByte (Nat.add_assoc a m i).symm

theorem memRead_cons (a n : Nat) (s : State) :
    memRead a (n + 1) s = s.readByte a :: memRead (a + 1) n s := by
  rw [Nat.add_comm n 1, memRead_append]
  rfl

theorem forall_mem_memRead {a n : Nat} {s : State} {p : Byte → Prop} :
    (∀ b ∈ memRead a n s, p b) ↔ ∀ i, i < n → p (s.readByte (a + i)) := by
  simp only [memRead, List.forall_mem_map, List.mem_range]

theorem take_memRead (k n : Nat) (s : State) : (memRead 0 n s).take k = memRead 0 (min k n) s := by
  rw [memRead, ← List.map_take, List.take_range]
  rfl

/-- The payload around its first NUL. -/
theorem headerPayload_split {s : State} {z : Nat} (hz : z < s.regs.blockSize.bytes)
    (hnul : s.readByte z = 0#8) :
    headerPayload s = memRead 0 z s ++ 0x00#8 :: memRead (z + 1) (s.regs.blockSize.bytes - (z + 1)) s := by
  have hlen : s.regs.blockSize.bytes = z + (s.regs.blockSize.bytes - (z + 1) + 1) := by omega
  rw [headerPayload]
  conv_lhs => rw [hlen, memRead_append, Nat.zero_add, memRead_cons, hnul]

theorem memRead_no_nul {s : State} {n : Nat} (h : ∀ i, i < n → s.readByte i ≠ 0#8) :
    ∀ b ∈ memRead 0 n s, b ≠ 0x00#8 := by
  rw [forall_mem_memRead]
  simpa only [Nat.zero_add] using h

/-! ### The fields -/

/-- The name before the first NUL, at most 64 bytes of it (R202). -/
theorem headerName_of_nul {s : State} {z : Nat} (hz : z < s.regs.blockSize.bytes)
    (hnul : s.readByte z = 0#8) (hfirst : ∀ i, i < z → s.readByte i ≠ 0#8) :
    headerName (headerPayload s) = (List.range (min z 64)).map s.readByte := by
  rw [headerName, headerPayload_split hz hnul, untilNul_append_nul (memRead_no_nul hfirst), boundName,
    take_memRead, memRead_zero_eq, Nat.min_comm]
  rfl

/-- The size a run of `m` digits right after the first NUL gives, saturated (R203, R205). -/
theorem headerSize_of_digits {s : State} {z m : Nat} (hz : z < s.regs.blockSize.bytes)
    (hnul : s.readByte z = 0#8) (hfirst : ∀ i, i < z → s.readByte i ≠ 0#8)
    (hm : z + 1 + m ≤ s.regs.blockSize.bytes)
    (hdigits : ∀ i, i < m → isDigit (s.readByte (z + 1 + i)) = true)
    (hend : z + 1 + m < s.regs.blockSize.bytes → isDigit (s.readByte (z + 1 + m)) = false) :
    headerSize (headerPayload s) =
      BitVec.ofNat 32 (sat32 (digitsValue ((List.range m).map fun i => s.readByte (z + 1 + i)))) := by
  have hsplit : s.regs.blockSize.bytes - (z + 1) = m + (s.regs.blockSize.bytes - (z + 1 + m)) := by omega
  have hrest : ∀ b ∈ (memRead (z + 1 + m) (s.regs.blockSize.bytes - (z + 1 + m)) s).head?,
      isDigit b = false := by
    cases hk : s.regs.blockSize.bytes - (z + 1 + m) with
    | zero => simp [memRead]
    | succ k =>
      rw [memRead_cons]
      intro b hb
      obtain rfl : s.readByte (z + 1 + m) = b := Option.some.inj hb
      exact hend (by omega)
  rw [headerSize, headerPayload_split hz hnul, afterNul_append_nul (memRead_no_nul hfirst), hsplit,
    memRead_append]
  exact congrArg (BitVec.ofNat 32) (decimal_digits _ _ (forall_mem_memRead.2 hdigits) hrest 0)

theorem sat32_toNat (v : Nat) : (BitVec.ofNat 32 (sat32 v)).toNat = min v 0xFFFFFFFF := by
  rw [BitVec.toNat_ofNat, sat32, Config.fsizeMax]
  omega

theorem blockLen_ge_128 (l : BlockLen) : 128 ≤ l.bytes := by cases l <;> decide

/-- A payload without NUL: 64 bytes of name and no size (R201, R202). -/
theorem header_of_no_nul {s : State} (h : ∀ i, i < s.regs.blockSize.bytes → s.readByte i ≠ 0#8) :
    headerName (headerPayload s) = (List.range 64).map s.readByte ∧ headerSize (headerPayload s) = 0#32 := by
  have hmin : min Config.fnameMax s.regs.blockSize.bytes = 64 :=
    Nat.min_eq_left ((show 64 ≤ 128 by decide).trans (blockLen_ge_128 _))
  constructor
  · rw [headerName, headerPayload, untilNul_of_no_nul (memRead_no_nul h), boundName, take_memRead, hmin,
      memRead_zero_eq]
  · rw [headerSize, headerPayload, afterNul_of_no_nul (memRead_no_nul h)]
    rfl

/-- Settles O28: `headerName_of_nul` and `headerSize_of_digits` at the first NUL, `header_of_no_nul` with
none. -/
theorem headerFieldsParsed : Obligations.HeaderFieldsParsed := by
  unfold Obligations.HeaderFieldsParsed
  rintro s _ _ rfl rfl
  refine ⟨rfl, fun z hz hnul hfirst => ⟨headerName_of_nul hz hnul hfirst, ?_⟩, header_of_no_nul⟩
  intro m hm hdigits hend
  have hrun : ∀ i, i < m → isDigit (s.readByte (z + 1 + i)) = true :=
    fun i hi => (isDigit_iff _).2 (hdigits i hi)
  have hstop : z + 1 + m < s.regs.blockSize.bytes → isDigit (s.readByte (z + 1 + m)) = false :=
    fun hlt => Bool.eq_false_iff.2 fun hd => hend hlt ((isDigit_iff _).1 hd)
  rw [headerSize_of_digits hz hnul hfirst hm hrun hstop, sat32_toNat]

end Sys2Proof.Machine
end

section
/-! PROOFS. Host commands and power-on reset (45_host_commands.md, 70_reset_and_hazards.md): START by
mode and storage answer, RESET, and the commands that only answer. -/

namespace Sys2Proof.Machine

/-! ### START -/

/-- START outside `Idle` (R242). -/
theorem exec_start_of_running {now : Time} {crc batch cap1k : Bool} {name : List Byte}
    {size : BitVec 32} {s : State} (h : s.regs.state ≠ .idle) :
    exec (.start now crc batch cap1k name size) s = .next (answer .refused s) :=
  congrArg Host.Outcome.next (if_pos h)

/-- START in `Idle`, batch mode (R241). -/
theorem exec_start_of_batch {now : Time} {crc cap1k : Bool} {name : List Byte}
    {size : BitVec 32} {s : State} (h : s.regs.state = .idle) :
    exec (.start now crc true cap1k name size) s =
      .next (beginSession now (nameSession name size (newSession crc true cap1k s))) :=
  congrArg Host.Outcome.next (if_neg (not_not_intro h))

/-- START in `Idle`, non-batch mode (R241, R243). -/
theorem exec_start_of_file {now : Time} {crc cap1k : Bool} {name : List Byte}
    {size : BitVec 32} {s : State} (h : s.regs.state = .idle) :
    exec (.start now crc false cap1k name size) s =
      .next (openSession now (nameSession name size (newSession crc false cap1k s))) :=
  congrArg Host.Outcome.next (if_neg (not_not_intro h))

/-- Settles O36: `exec_start_of_running` is the statement. -/
theorem startRefusedWhileRunning : Obligations.StartRefusedWhileRunning := by
  unfold Obligations.StartRefusedWhileRunning
  exact fun _ _ _ _ _ _ _ h => exec_start_of_running h

/-- Settles O34: `exec_start_of_batch`, the updates in order. -/
theorem startBatchSession : Obligations.StartBatchSession := by
  unfold Obligations.StartBatchSession
  rintro now crc cap1k name size s _ hidle rfl
  rw [exec_start_of_batch hidle]
  rfl

/-- Opening the file START names, in registers and calls (R241, R206). -/
theorem openCurrent_nameSession_eq (crc cap1k : Bool) (name : List Byte) (size : BitVec 32) (s : State) :
    openCurrent (nameSession name size (newSession crc false cap1k s)) = { s.openDrawn with
      regs := { startRegs s.regs crc false cap1k (boundName name) size with openFile := none }
      calls := s.calls ++ (closeCalls s.regs.openFile ++
        [.stRemove (boundName name), .stOpen (boundName name) s.openReply]) } := by
  have hname : (nameSession name size (newSession crc false cap1k s)).regs.fileName = boundName name :=
    nameSession_fileName _ rfl
  rw [openCurrent_eq, hname, openDrawn_eq, openDrawn_eq]
  rfl

theorem openSession_of_some {now : Time} {s : State} {h : Handle} (hs : s.openReply = some h) :
    openSession now s = beginSession now (holdFile h (openCurrent s)) := by
  rw [openSession, openCurrentReply_eq, hs]

theorem openSession_of_none {now : Time} {s : State} (hs : s.openReply = none) :
    openSession now s = answer .refusedByStorage (setStorageError true (openCurrent s)) := by
  rw [openSession, openCurrentReply_eq, hs]

/-- Settles O35: by the storage answer, after the calls of `openCurrent_nameSession_eq`. -/
theorem startFileSession : Obligations.StartFileSession := by
  unfold Obligations.StartFileSession
  rintro now crc cap1k name _ size s _ hidle rfl rfl
  have hreply : (nameSession name size (newSession crc false cap1k s)).openReply = s.openReply := rfl
  refine ⟨fun h hopen => ?_, fun hfail => ?_⟩
  · rw [exec_start_of_file hidle, openSession_of_some (hreply.trans hopen), openCurrent_nameSession_eq, hopen,
      openDrawn_eq]
    rfl
  · rw [exec_start_of_file hidle, openSession_of_none (hreply.trans hfail), openCurrent_nameSession_eq, hfail]
    rfl

/-- What a START that answered did: refused outside `Idle`; else begun in batch mode, begun with the file
open, or refused by storage. -/
theorem exec_start_next {now : Time} {crc batch cap1k : Bool} {name : List Byte} {size : BitVec 32}
    {s t : State} (h : exec (.start now crc batch cap1k name size) s = .next t) :
    (s.regs.state ≠ .idle ∧ t = answer .refused s) ∨
    (s.regs.state = .idle ∧ (
      t = beginSession now (nameSession name size (newSession crc true cap1k s)) ∨
      (∃ f, t = beginSession now (holdFile f
        (openCurrent (nameSession name size (newSession crc false cap1k s))))) ∨
      t = answer .refusedByStorage (setStorageError true
        (openCurrent (nameSession name size (newSession crc false cap1k s)))))) := by
  by_cases hidle : s.regs.state = .idle
  · refine .inr ⟨hidle, ?_⟩
    cases batch with
    | true =>
      rw [exec_start_of_batch hidle] at h
      cases h
      exact .inl rfl
    | false =>
      rw [exec_start_of_file hidle] at h
      cases h
      cases hreply : (nameSession name size (newSession crc false cap1k s)).openReply with
      | none => exact .inr (.inr (openSession_of_none hreply))
      | some f => exact .inr (.inl ⟨f, openSession_of_some hreply⟩)
  · rw [exec_start_of_running hidle] at h
    cases h
    exact .inl ⟨hidle, rfl⟩

/-- An accepted START leaves `acc` 0 (R241, decision D24). -/
theorem exec_start_accepted_acc {now : Time} {crc batch cap1k : Bool} {name : List Byte}
    {size : BitVec 32} {s t : State} (h : exec (.start now crc batch cap1k name size) s = .next t)
    (haccepted : t.result = .accepted) : t.regs.acc = 0 := by
  obtain ⟨-, rfl⟩ | ⟨-, rfl | ⟨f, rfl⟩ | rfl⟩ := exec_start_next h
  · cases haccepted
  · rfl
  · rw [openCurrent_nameSession_eq]
    rfl
  · cases haccepted

/-- BNC.BYTE on a good complement leaves `acc` 0, in sequence or not (R170). -/
theorem exec_bncByte_acc {b : Byte} {now : Time} {s t : State} (h : exec (.bncByte b now) s = .next t)
    (hpair : b = ~~~s.regs.blockNumber) : t.regs.acc = 0 := by
  have hgood : pairGood s.regs.blockNumber b = true := beq_iff_eq.2 hpair
  rw [exec_bncByte, if_pos hgood] at h
  cases h
  split_ifs <;> rfl

/-- Settles O8: ACC.CLR is its one write; `exec_bncByte_acc` and `exec_start_accepted_acc`. -/
theorem accumulatorCleared : Obligations.AccumulatorCleared := by
  unfold Obligations.AccumulatorCleared
  exact ⟨fun _ => rfl, fun _ _ _ _ => exec_bncByte_acc, fun _ _ _ _ _ _ _ _ => exec_start_accepted_acc⟩

/-! ### RESET, QUERY, NOP and power-on reset -/

theorem exec_reset (s : State) :
    exec .reset s = .next (answer .nothing (setReply .nak (enterIdle s))) := rfl

/-- Settles O42: by what entering `Idle` does (`enterIdle_eq`). -/
theorem resetCommandEndsSession : Obligations.ResetCommandEndsSession := by
  unfold Obligations.ResetCommandEndsSession
  intro s
  rw [exec_reset, enterIdle_eq]
  rfl

/-- Settles O43: each of these commands is its answer alone. -/
theorem queryAndNopChangeNothing : Obligations.QueryAndNopChangeNothing := by
  unfold Obligations.QueryAndNopChangeNothing
  exact fun _ => ⟨rfl, rfl, rfl, rfl, rfl⟩

/-- Settles O44: RST writes `Regs.reset`, which has R310's values. -/
theorem powerOnReset : Obligations.PowerOnReset := by
  unfold Obligations.PowerOnReset
  exact ⟨fun _ => ⟨Regs.reset, rfl⟩, by decide⟩

end Sys2Proof.Machine
end

section
/-! PROOFS. Encoding (30_encoding.md): decoding an operation's bytes gives it back, and every byte outside
`Idle` selects an operation. -/

namespace Sys2Proof

/-! ### Format W -/

theorem timeFits_iff (now : Time) : timeFits now = true ↔ now < 2 ^ 64 := decide_eq_true_iff

theorem isOtherHeader_iff (b : Byte) :
    isOtherHeader b = true ↔ b ≠ 0x01#8 ∧ b ≠ 0x02#8 ∧ b ≠ 0x04#8 := by
  simp only [isOtherHeader, Bool.and_eq_true, bne_iff_ne, and_assoc]

/-- A byte that is no header is BS.OTHER's. -/
theorem decodeWire_of_isOtherHeader {b : Byte} (h : isOtherHeader b = true) (now : Time) :
    decodeWire .blockStart now b = some (.bsOther b now) := by
  obtain ⟨hsoh, hstx, heot⟩ := (isOtherHeader_iff b).1 h
  rw [decodeWire, if_neg hsoh, if_neg hstx, if_neg heot]

theorem decode_wire_of_decodeWire {st : FsmState} {now : Time} {b : Byte} {i : Instr}
    (h : decodeWire st now b = some i) (rest : List Byte) :
    decode .wire st now (b :: rest) = .ok (i, rest) := by
  rw [decode, h]

/-- A received byte gives its operation back, in the operation's state and at its time. -/
theorem decode_encode_wire {i : Instr} (hwf : i.wellFormed = true) (hfmt : i.format = .wire)
    (rest : List Byte) : decode .wire i.wireState i.wireNow (encode i ++ rest) = .ok (i, rest) := by
  cases i with
  | bsOther b now =>
    have hother : isOtherHeader b = true := (Bool.and_eq_true_iff.1 hwf).1
    exact decode_wire_of_decodeWire (decodeWire_of_isOtherHeader hother now) rest
  | bsSoh | bsStx | bsEot | bnByte | bncByte | dbByte | dcByte | dccByte | pgByte => rfl
  | _ => cases hfmt

/-- What the decoder selects for a byte: an operation of that state and format, encoded by that byte. -/
theorem decodeWire_spec {st : FsmState} (hst : st ≠ .idle) (now : Time) (b : Byte) :
    ∃ i, decodeWire st now b = some i ∧ i.format = .wire ∧ i.wireState = st ∧ encode i = [b] ∧
      (now < 2 ^ 64 → i.wellFormed = true) := by
  cases st with
  | idle => exact absurd rfl hst
  | blockStart =>
    by_cases hsoh : b = 0x01#8
    · subst hsoh; exact ⟨.bsSoh now, rfl, rfl, rfl, rfl, (timeFits_iff now).2⟩
    by_cases hstx : b = 0x02#8
    · subst hstx; exact ⟨.bsStx now, rfl, rfl, rfl, rfl, (timeFits_iff now).2⟩
    by_cases heot : b = 0x04#8
    · subst heot; exact ⟨.bsEot now, rfl, rfl, rfl, rfl, (timeFits_iff now).2⟩
    have hother := (isOtherHeader_iff b).2 ⟨hsoh, hstx, heot⟩
    exact ⟨.bsOther b now, decodeWire_of_isOtherHeader hother now, rfl, rfl, rfl,
      fun hnow => Bool.and_eq_true_iff.2 ⟨hother, (timeFits_iff now).2 hnow⟩⟩
  | blockNumber => exact ⟨.bnByte b now, rfl, rfl, rfl, rfl, (timeFits_iff now).2⟩
  | blockNumberCheck => exact ⟨.bncByte b now, rfl, rfl, rfl, rfl, (timeFits_iff now).2⟩
  | dataBlock => exact ⟨.dbByte b now, rfl, rfl, rfl, rfl, (timeFits_iff now).2⟩
  | dataCheck => exact ⟨.dcByte b now, rfl, rfl, rfl, rfl, (timeFits_iff now).2⟩
  | dataCheckCrc => exact ⟨.dccByte b now, rfl, rfl, rfl, rfl, (timeFits_iff now).2⟩
  | purge => exact ⟨.pgByte b now, rfl, rfl, rfl, rfl, (timeFits_iff now).2⟩

/-- Case analysis over what a byte decodes to: each operation with the state that selects it (R100). -/
theorem decodeWire_cases {P : Instr → Prop} {st : FsmState} {now : Time} {b : Byte} {i : Instr}
    (h : decodeWire st now b = some i)
    (soh : st = .blockStart → P (.bsSoh now)) (stx : st = .blockStart → P (.bsStx now))
    (eot : st = .blockStart → P (.bsEot now)) (other : st = .blockStart → P (.bsOther b now))
    (number : st = .blockNumber → P (.bnByte b now))
    (complement : st = .blockNumberCheck → P (.bncByte b now))
    (data : st = .dataBlock → P (.dbByte b now)) (trailer : st = .dataCheck → P (.dcByte b now))
    (trailerLow : st = .dataCheckCrc → P (.dccByte b now)) (purged : st = .purge → P (.pgByte b now)) :
    P i := by
  cases st with
  | idle => cases h
  | blockStart =>
    unfold decodeWire at h
    split_ifs at h <;> cases h
    · exact soh rfl
    · exact stx rfl
    · exact eot rfl
    · exact other rfl
  | blockNumber => cases h; exact number rfl
  | blockNumberCheck => cases h; exact complement rfl
  | dataBlock => cases h; exact data rfl
  | dataCheck => cases h; exact trailer rfl
  | dataCheckCrc => cases h; exact trailerLow rfl
  | purge => cases h; exact purged rfl

/-! ### Format H -/

/-- POLL's record gives its time back. -/
theorem decodePoll_toBytes {now : Time} (h : timeFits now = true) (rest : List Byte) :
    decodePoll (toBytes 8 now ++ rest) = .ok (.poll now, rest) := by
  have hnow : now < 256 ^ 8 := (timeFits_iff now).1 h
  simp only [decodePoll, takeBytes_toBytes, ofBytes_toBytes 8 now hnow]

/-- START's record gives its arguments back, field by field in R99's order. -/
theorem decodeStart_fields {now : Time} {name : List Byte} (hnow : timeFits now = true)
    (hname : name.length < 2 ^ 16) (crc batch cap1k : Bool) (size : BitVec 32) (rest : List Byte) :
    decodeStart (toBytes 8 now ++ (flagByte crc batch cap1k ::
      (toBytes 2 name.length ++ (name ++ (toBytes 4 size.toNat ++ rest))))) =
      .ok (.start now crc batch cap1k name size, rest) := by
  obtain ⟨hcrc, hbatch, hcap, hflags⟩ := flagByte_bits crc batch cap1k
  have hnow' : now < 256 ^ 8 := (timeFits_iff now).1 hnow
  have hname' : name.length < 256 ^ 2 := hname
  have hsize : size.toNat < 256 ^ 4 := size.isLt
  simp only [decodeStart, takeBytes_toBytes, Nat.not_le.2 hflags, if_false, ofBytes_toBytes 2 _ hname',
    takeBytes_append, ofBytes_toBytes 8 _ hnow', ofBytes_toBytes 4 _ hsize, hcrc, hbatch, hcap,
    BitVec.ofNat_toNat, BitVec.setWidth_eq]

/-- A host command's record gives it back, whatever follows. -/
theorem decodeHost_encode {i : Instr} (hwf : i.wellFormed = true) (hfmt : i.format = .host)
    (rest : List Byte) : decodeHost (encode i ++ rest) = .ok (i, rest) := by
  cases i with
  | poll now => exact decodePoll_toBytes hwf rest
  | start now crc batch cap1k name size =>
    obtain ⟨hnow, hname⟩ := Bool.and_eq_true_iff.1 hwf
    have hlen : name.length < 2 ^ 16 := of_decide_eq_true (Bool.and_eq_true_iff.1 hname).1
    simp only [encode, List.cons_append, List.append_assoc, List.nil_append]
    exact decodeStart_fields hnow hlen crc batch cap1k size rest
  | nop | reset | query | reserved5 | reserved6 | reserved7 => rfl
  | _ => cases hfmt

/-- A record that is read at all is a host command's. -/
theorem decodeHost_format {bs rest : List Byte} {i : Instr} (h : decodeHost bs = .ok (i, rest)) :
    i.format = .host := by
  have hstart : ∀ args, decodeStart args = .ok (i, rest) → i.format = .host := by
    intro args hargs
    unfold decodeStart at hargs
    split at hargs
    · cases hargs
    · cases hargs
    · split at hargs
      · cases hargs
      · split at hargs
        · cases hargs
        · split at hargs
          · cases hargs
          · split at hargs
            · cases hargs
            · cases hargs; rfl
  have hpoll : ∀ args, decodePoll args = .ok (i, rest) → i.format = .host := by
    intro args hargs
    unfold decodePoll at hargs
    split at hargs
    · cases hargs
    · cases hargs; rfl
  unfold decodeHost at h
  split at h
  · cases h
  · split at h
    · cases h
    · split at h
      case h_2 => exact hstart _ h
      case h_3 => exact hpoll _ h
      all_goals cases h; rfl

/-! ### All formats -/

theorem decode_encode_reply {i : Instr} (hfmt : i.format = .reply) (st : FsmState) (now : Time)
    (rest : List Byte) : decode .reply st now (encode i ++ rest) = .ok (i, rest) := by
  cases i with
  | ack | nak | can | c => rfl
  | _ => cases hfmt

/-- Settles O45: by the format, `decode_encode_wire`, `decode_encode_reply` and `decodeHost_encode`. -/
theorem decodeEncodeRoundTrip : Obligations.DecodeEncodeRoundTrip := by
  unfold Obligations.DecodeEncodeRoundTrip
  intro i rest hwf hbits
  cases hfmt : i.format with
  | wire => exact decode_encode_wire hwf hfmt rest
  | reply => exact decode_encode_reply hfmt _ _ rest
  | host => exact decodeHost_encode hwf hfmt rest
  | internal => exact absurd hfmt hbits

/-- Settles O46: `decodeWire_spec` outside `Idle`. -/
theorem wireDecodeTotal : Obligations.WireDecodeTotal := by
  unfold Obligations.WireDecodeTotal
  refine fun st now b => ⟨?_, fun hst => decodeWire_spec hst now b⟩
  rintro rfl
  rfl

/-- Settles O47: each word is decoded by evaluation. -/
theorem knownWordsDecode : Obligations.KnownWordsDecode := by
  unfold Obligations.KnownWordsDecode
  exact ⟨rfl, rfl, rfl, rfl, rfl, rfl, rfl, rfl, rfl, rfl, rfl⟩

end Sys2Proof
end

section
/-! PROOFS. The step (00_scope.md R7, R8): it runs the host's record, or what another agent does. -/

namespace Sys2Proof.Machine

/-- The step with a next input is what that input does, the input used up. -/
theorem step_cons {s : State} {i : Input} {rest : List Input} (h : s.inputs = i :: rest) :
    step s = runInput i { s with inputs := rest } := by
  rw [step_eq, h]

theorem step_nil {s : State} (h : s.inputs = []) : step s = .next s := by
  rw [step_eq, h]

/-- Settles O49: by `step_cons`, each input is its own clause of `runInput`. -/
theorem stepRunsOtherInputs : Obligations.StepRunsOtherInputs := by
  unfold Obligations.StepRunsOtherInputs
  refine fun rest s => ⟨step_nil, fun _ => step_cons, fun _ => step_cons, fun _ => step_cons,
    fun _ => step_cons, step_cons, fun bs why h hbs => ?_⟩
  rw [step_cons h, runInput, runRecord, hbs]

/-- A command record that decodes is run as the command decoded. -/
theorem step_command {s : State} {record rest' : List Byte} {rest : List Input} {i : Instr}
    (h : s.inputs = .command record :: rest) (hi : decodeHost record = .ok (i, rest')) :
    step s = runCommand i { s with inputs := rest } := by
  rw [step_cons h, runInput, runRecord, hi]

/-- A command that carries no time is run at once. -/
theorem runCommand_of_hostNow_none {i : Instr} (h : hostNow i = none) (s : State) :
    runCommand i s = exec i s := by
  rw [runCommand, h]

theorem runCommand_of_inTime {i : Instr} {now : Time} (h : hostNow i = some now) {s : State}
    (ht : s.regs.state = .idle ∨ s.lastNow ≤ now) : runCommand i s = exec i { s with lastNow := now } := by
  have hin : inTime now s = true := by
    rw [inTime, Bool.or_eq_true, beq_iff_eq, decide_eq_true_iff]
    exact ht
  rw [runCommand, h]
  exact if_pos hin

theorem runCommand_of_late {i : Instr} {now : Time} (h : hostNow i = some now) {s : State}
    (hs : s.regs.state ≠ .idle) (ht : now < s.lastNow) : runCommand i s = .next (answer .rejected s) := by
  have hin : ¬ inTime now s = true := by
    rw [inTime, Bool.or_eq_true, beq_iff_eq, decide_eq_true_iff]
    exact not_or.2 ⟨hs, Nat.not_le.2 ht⟩
  rw [runCommand, h]
  exact if_neg hin

/-- Only a START or a POLL carries a time. -/
theorem hostNow_eq_none {i : Instr} (hpoll : ∀ now, i ≠ .poll now)
    (hstart : ∀ now crc batch cap1k name size, i ≠ .start now crc batch cap1k name size) :
    hostNow i = none := by
  cases i with
  | poll now => exact absurd rfl (hpoll now)
  | start now crc batch cap1k name size => exact absurd rfl (hstart now crc batch cap1k name size)
  | _ => rfl

theorem hostNow_eq_some {i : Instr} {now : Time} (h : i = .poll now ∨ ∃ crc batch cap1k name size,
    i = .start now crc batch cap1k name size) : hostNow i = some now := by
  rcases h with rfl | ⟨crc, batch, cap1k, name, size, rfl⟩ <;> rfl

/-- Settles O48: the record decodes (`decodeHost_encode`), and the command runs by the time it carries. -/
theorem stepRunsHostCommand : Obligations.StepRunsHostCommand := by
  unfold Obligations.StepRunsHostCommand
  intro i extra rest s hwf hfmt hin
  rw [step_command hin (decodeHost_encode hwf hfmt extra)]
  refine ⟨fun hpoll hstart => ?_, fun now hi => ⟨fun ht => ?_, fun hrun hlate => ?_⟩⟩
  · exact runCommand_of_hostNow_none (hostNow_eq_none hpoll hstart) _
  · exact runCommand_of_inTime (hostNow_eq_some hi) ht
  · exact runCommand_of_late (hostNow_eq_some hi) hrun hlate

end Sys2Proof.Machine
end

section
/-! PROOFS. POLL (45_host_commands.md): which of its cases runs, the loop over its budget byte by byte, and
the bytes it takes. -/

namespace Sys2Proof.Machine

/-! ### The cases of POLL -/

/-- A POLL that completes answers the code of the state its body left (R246). -/
theorem returnState_eq_next_iff {o : Out} {t' : State} : returnState o = .next t' ↔
    ∃ t, o = .next t ∧ t' = answer (.polled t.regs.state.code) t := by
  cases o with
  | next t =>
    simp only [returnState, Host.Outcome.next.injEq, exists_eq_left']
    exact eq_comm
  | fault r => simp [returnState]
  | refused r => simp [returnState]

/-- POLL in `Idle` only answers (R244). -/
theorem exec_poll_of_idle {now : Time} {s : State} (h : s.regs.state = .idle) :
    exec (.poll now) s = .next (answer (.polled 0) s) := by
  have hexec : exec (.poll now) s = execPoll now s := rfl
  have hcode : s.regs.state.code = 0 := by rw [h]; rfl
  rw [hexec, execPoll, if_pos h, returnState, hcode]

theorem exec_poll_of_running {now : Time} {s : State} (h : s.regs.state ≠ .idle) :
    exec (.poll now) s = returnState (pollRunning now s) := by
  have hexec : exec (.poll now) s = execPoll now s := rfl
  rw [hexec, execPoll, if_neg h]

/-- An empty queue at or before the deadline (R221). -/
theorem pollRunning_of_waiting {now : Time} {s : State} (hrx : s.rx = []) (h : now ≤ s.regs.deadline) :
    pollRunning now s = .next (s.call (.rxAvailable 0)) := by
  have hpast : ¬ pastDeadline now s.regs.deadline = true := by
    rw [pastDeadline, decide_eq_true_iff]
    exact Nat.not_lt.2 h
  rw [pollRunning, if_pos hrx, if_neg hpast]

/-- An empty queue past the deadline (R221). -/
theorem pollRunning_of_timeout {now : Time} {s : State} (hrx : s.rx = []) (h : s.regs.deadline < now) :
    pollRunning now s = .next (timeoutStep now (s.call (.rxAvailable 0))) := by
  have hpast : pastDeadline now s.regs.deadline = true := decide_eq_true h
  rw [pollRunning, if_pos hrx, if_pos hpast, raise_timeout]

theorem pollRunning_of_bytes {now : Time} {s : State} (hrx : s.rx ≠ []) :
    pollRunning now s = pollLoop now s.rx (s.call (.rxAvailable s.rx.length)) := by
  rw [pollRunning, if_neg hrx]

/-- Settles O37: the three cases with no byte taken. -/
theorem pollWithoutBytes : Obligations.PollWithoutBytes := by
  unfold Obligations.PollWithoutBytes
  refine fun now s => ⟨exec_poll_of_idle, fun hrun hrx hwait => ?_, fun hrun hrx hpast => ?_⟩
  · rw [exec_poll_of_running hrun, pollRunning_of_waiting hrx hwait]
    rfl
  · refine ⟨_, exec_timeout now _, ?_⟩
    rw [exec_poll_of_running hrun, pollRunning_of_timeout hrx hpast]
    rfl

/-- What a POLL that completed did. -/
theorem exec_poll_next {now : Time} {s t' : State} (h : exec (.poll now) s = .next t') :
    ∃ t, t' = answer (.polled t.regs.state.code) t ∧
      (t = s ∨ (s.rx = [] ∧ t = s.call (.rxAvailable 0)) ∨
        (s.regs.state ≠ .idle ∧ s.rx = [] ∧ t = timeoutStep now (s.call (.rxAvailable 0))) ∨
        (s.rx ≠ [] ∧ pollLoop now s.rx (s.call (.rxAvailable s.rx.length)) = .next t)) := by
  by_cases hidle : s.regs.state = .idle
  · rw [exec_poll_of_idle hidle] at h
    cases h
    exact ⟨s, by rw [hidle]; rfl, .inl rfl⟩
  · rw [exec_poll_of_running hidle, returnState_eq_next_iff] at h
    obtain ⟨t, ht, rfl⟩ := h
    refine ⟨t, rfl, .inr ?_⟩
    by_cases hrx : s.rx = []
    · rcases Nat.lt_or_ge s.regs.deadline now with hpast | hwait
      · rw [pollRunning_of_timeout hrx hpast] at ht
        cases ht
        exact .inr (.inl ⟨hidle, hrx, rfl⟩)
      · rw [pollRunning_of_waiting hrx hwait] at ht
        cases ht
        exact .inl ⟨hrx, rfl⟩
    · rw [pollRunning_of_bytes hrx] at ht
      exact .inr (.inr ⟨hrx, ht⟩)

/-- Induction over a POLL: what its answer, its question to the queue, the timeout step and every taken
byte preserve, the POLL preserves. -/
theorem exec_poll_induct {now : Time} {P : State → Prop} (hanswer : ∀ r s, P s → P (answer r s))
    (hask : ∀ n s, P s → P (s.call (.rxAvailable n)))
    (htimeout : ∀ s, s.regs.state ≠ .idle → P s → P (timeoutStep now s))
    (hstep : ∀ (b : Byte) (rest : List Byte) (s t : State), s.regs.state ≠ .idle → P s →
      stepByte now b (takeByte b rest s) = .next t → P t)
    {s t : State} (hs : P s) (h : exec (.poll now) s = .next t) : P t := by
  obtain ⟨u, rfl, rfl | ⟨-, rfl⟩ | ⟨hrun, -, rfl⟩ | ⟨-, hloop⟩⟩ := exec_poll_next h
  · exact hanswer _ _ hs
  · exact hanswer _ _ (hask _ _ hs)
  · exact hanswer _ _ (htimeout _ hrun (hask _ _ hs))
  · exact hanswer _ _ (pollLoop_induct hstep _ _ _ (hask _ _ hs) hloop)

/-! ### The loop, byte by byte -/

theorem pollLoop_cons_of_running {now : Time} {b : Byte} {rest : List Byte} {s : State}
    (h : s.regs.state ≠ .idle) {t : State} : pollLoop now (b :: rest) s = .next t ↔
      ∃ u, stepByte now b (takeByte b rest s) = .next u ∧ pollLoop now rest u = .next t := by
  rw [pollLoop, if_neg h]
  cases stepByte now b (takeByte b rest s) <;> simp

/-- The loop is the run of the operations its bytes decode to (R244, R169). -/
theorem pollRun_iff_pollLoop (now : Time) (bs : List Byte) (s t : State) :
    PollRun now bs s t ↔ pollLoop now bs s = .next t := by
  induction bs generalizing s with
  | nil =>
    rw [PollRun, pollLoop, Host.Outcome.next.injEq]
    exact eq_comm
  | cons b rest ih =>
    by_cases hidle : s.regs.state = .idle
    · have hnone : decodeWire s.regs.state now b = none := by rw [hidle]; rfl
      rw [pollLoop_idle hidle, PollRun, Host.Outcome.next.injEq, hnone]
      simp only [hidle, true_and, reduceCtorEq, false_and, exists_false, or_false]
      exact eq_comm
    · obtain ⟨i, hi, -⟩ := decodeWire_spec hidle now b
      have hexec : stepByte now b (takeByte b rest s) = exec i (takeByte b rest s) := stepByte_decoded hi
      rw [pollLoop_cons_of_running hidle, hexec, PollRun, hi]
      simp only [hidle, false_and, false_or, Option.some.injEq, exists_and_left, exists_eq_left', ih]
      rfl

/-- Settles O38: the loop is the run (`pollRun_iff_pollLoop`), and POLL answers the state it left. -/
theorem pollRunsDecodedBytes : Obligations.PollRunsDecodedBytes := by
  unfold Obligations.PollRunsDecodedBytes
  intro now s t' hrun hrx
  rw [exec_poll_of_running hrun, pollRunning_of_bytes hrx, returnState_eq_next_iff]
  exact exists_congr fun t => and_congr_left fun _ => (pollRun_iff_pollLoop now s.rx _ t).symm

/-! ### The bytes taken -/

/-- What is sent and stored takes no byte. -/
theorem Sends.bytesTaken {s t : State} (h : Sends s t) : t.bytesTaken = s.bytesTaken := by
  obtain ⟨added, -, hcalls, -, -, hadded⟩ := h
  have hnone : added.filterMap Call.byteRead = [] := List.filterMap_eq_nil_iff.2 fun c hc => by
    have hr := hadded c hc
    cases c with
    | rxRead b => cases hr
    | _ => rfl
  rw [State.bytesTaken, hcalls, List.filterMap_append, hnone, List.append_nil, State.bytesTaken]

theorem bytesTaken_call {s : State} {c : Call} (h : c.byteRead = none) :
    (s.call c).bytesTaken = s.bytesTaken := by
  simp [State.bytesTaken, h]

theorem bytesTaken_takeByte (b : Byte) (rest : List Byte) (s : State) :
    (takeByte b rest s).bytesTaken = s.bytesTaken ++ [b] := by
  simp [State.bytesTaken]

/-- The loop takes a front part of its bytes, in order, and leaves some only in `Idle` (R245). -/
theorem pollLoop_takes {now : Time} (bs : List Byte) : ∀ {s t : State}, s.rx = bs →
    pollLoop now bs s = .next t → ∃ taken left, bs = taken ++ left ∧ t.rx = left ∧
      (t.regs.state ≠ .idle → left = []) ∧ t.bytesTaken = s.bytesTaken ++ taken := by
  induction bs with
  | nil =>
    intro s t hrx h
    cases h
    exact ⟨[], [], rfl, hrx, fun _ => rfl, (List.append_nil _).symm⟩
  | cons b rest ih =>
    intro s t hrx h
    by_cases hidle : s.regs.state = .idle
    · rw [pollLoop_idle hidle] at h
      cases h
      exact ⟨[], b :: rest, rfl, hrx, fun hne => absurd hidle hne, (List.append_nil _).symm⟩
    · obtain ⟨u, hu, hloop⟩ := (pollLoop_cons_of_running hidle).1 h
      have hframe := stepByte_frame hu
      obtain ⟨taken, left, hsplit, hleft, hend, htaken⟩ := ih hframe.rx hloop
      refine ⟨b :: taken, left, congrArg _ hsplit, hleft, hend, ?_⟩
      rw [htaken, hframe.sends.bytesTaken, bytesTaken_takeByte, List.append_assoc, List.singleton_append]

theorem timeoutStep_rx (now : Time) (s : State) : (timeoutStep now s).rx = s.rx := by
  unfold timeoutStep
  split <;> simp [timeoutAbort, timeoutRetry]

/-- Settles O39: with an empty queue nothing is taken, with bytes queued `pollLoop_takes`. -/
theorem pollTakesWholeBudget : Obligations.PollTakesWholeBudget := by
  unfold Obligations.PollTakesWholeBudget
  intro now s t' h hrun
  have hask : ∀ n, (s.call (.rxAvailable n)).bytesTaken = s.bytesTaken := fun _ => bytesTaken_call rfl
  rw [exec_poll_of_running hrun, returnState_eq_next_iff] at h
  obtain ⟨t, ht, rfl⟩ := h
  by_cases hrx : s.rx = []
  · rcases Nat.lt_or_ge s.regs.deadline now with hpast | hwait
    · rw [pollRunning_of_timeout hrx hpast] at ht
      cases ht
      have htaken := (Sends.timeout now (s.call (.rxAvailable 0))).bytesTaken.trans (hask 0)
      exact ⟨[], [], hrx, (timeoutStep_rx now _).trans hrx, fun _ => rfl,
        htaken.trans (List.append_nil _).symm⟩
    · rw [pollRunning_of_waiting hrx hwait] at ht
      cases ht
      exact ⟨[], [], hrx, hrx, fun _ => rfl, (hask 0).trans (List.append_nil _).symm⟩
  · rw [pollRunning_of_bytes hrx] at ht
    obtain ⟨taken, left, hsplit, hleft, hend, htaken⟩ :=
      pollLoop_takes (s := s.call (.rxAvailable s.rx.length)) s.rx rfl ht
    exact ⟨taken, left, hsplit, hleft, hend, htaken.trans (congrArg (· ++ taken) (hask _))⟩

end Sys2Proof.Machine
end

section
/-! PROOFS. The invariant (10_state.md R43, R44): split into what it says of every state and what it says
of the one register `state` names, and kept by every consumed byte and every command. -/

namespace Sys2Proof.Machine

/-! ### The invariant in two parts -/

/-- The part of the invariant that does not look at `state`. -/
structure Regs.Forms (r : Regs) : Prop where
  sumHigh : r.crcMode = false → r.acc.toNat < 256
  nameStored : r.currentFilename.length = Config.fnameMax
  nameBound : r.fnameLen.toNat ≤ Config.fnameMax
  batchNamed : r.batchMode = true → r.openFile ≠ none → r.fnameLen ≠ 0
  bufferWf : Memory.wf r.receiveBuffer
  bufferRange : Memory.inRange r.receiveBuffer

/-- A block in flight fits the capacity, and CAN is not pending. -/
def Regs.InFlight (r : Regs) : Prop :=
  r.pendingReply ≠ .can ∧ r.blockSize.bytes ≤ r.bufferCapacity.bytes

/-- What the invariant says of the value `state` has. -/
def Regs.StateForm (r : Regs) : Prop :=
  match r.state with
  | .idle => r.openFile = none ∧ r.pendingReply ≠ .can
  | .blockStart => r.pendingReply ≠ .can
  | .blockNumber | .blockNumberCheck => r.InFlight
  | .dataBlock => r.InFlight ∧ 1 ≤ r.bytesRemainingInBlock.toNat ∧
      r.cursor.toNat + r.bytesRemainingInBlock.toNat = r.blockSize.bytes
  | .dataCheck => r.InFlight ∧ r.cursor.toNat = r.blockSize.bytes ∧ r.bytesRemainingInBlock.toNat = 0
  | .dataCheckCrc => (r.InFlight ∧ r.cursor.toNat = r.blockSize.bytes ∧
      r.bytesRemainingInBlock.toNat = 0) ∧ r.crcMode = true
  | .purge => r.pendingReply = .nak ∨ r.pendingReply = .can

theorem Regs.Inv.forms {r : Regs} (h : r.Inv) : r.Forms := { h with }

theorem Regs.Inv.stateForm {r : Regs} (h : r.Inv) : r.StateForm := by
  have hcan : ∀ st, r.state = st → st ≠ .purge → r.pendingReply ≠ .can :=
    fun st hst hne hc => hne (hst.symm.trans (h.canPurge hc))
  have hflight : ∀ st, r.state = st → FsmState.inBlock st = true → r.InFlight := fun st hst hin =>
    ⟨hcan st hst (by rintro rfl; cases hin), h.blockFits (hst ▸ hin)⟩
  unfold Regs.StateForm
  cases hs : r.state with
  | idle => exact ⟨h.idleClosed hs, hcan _ hs nofun⟩
  | blockStart => exact hcan _ hs nofun
  | blockNumber => exact hflight _ hs rfl
  | blockNumberCheck => exact hflight _ hs rfl
  | dataBlock => exact ⟨hflight _ hs rfl, h.inPayload hs⟩
  | dataCheck => exact ⟨hflight _ hs rfl, h.atTrailer (.inl hs)⟩
  | dataCheckCrc => exact ⟨⟨hflight _ hs rfl, h.atTrailer (.inr hs)⟩, h.crcState hs⟩
  | purge => exact h.purgeReply hs

/-- Only `Purge` has CAN pending. -/
theorem Regs.StateForm.pendingReply_ne_can {r : Regs} (h : r.StateForm) (hne : r.state ≠ .purge) :
    r.pendingReply ≠ .can := by
  unfold Regs.StateForm at h
  generalize r.state = st at h hne
  cases st with
  | idle => exact h.2
  | blockStart => exact h
  | blockNumber | blockNumberCheck => exact h.1
  | dataBlock | dataCheck => exact h.1.1
  | dataCheckCrc => exact h.1.1.1
  | purge => exact absurd rfl hne

/-- A block in flight fits the capacity. -/
theorem Regs.StateForm.blockFits {r : Regs} (h : r.StateForm) (hin : FsmState.inBlock r.state = true) :
    r.blockSize.bytes ≤ r.bufferCapacity.bytes := by
  unfold Regs.StateForm at h
  generalize r.state = st at h hin
  cases st with
  | blockNumber | blockNumberCheck => exact h.2
  | dataBlock | dataCheck => exact h.1.2
  | dataCheckCrc => exact h.1.1.2
  | _ => cases hin

/-- The two parts make the invariant. -/
theorem Regs.Forms.inv {r : Regs} (hf : r.Forms) (h : r.StateForm) : r.Inv := { hf with
  idleClosed := fun hs => by rw [Regs.StateForm, hs] at h; exact h.1
  purgeReply := fun hs => by rw [Regs.StateForm, hs] at h; exact h
  canPurge := fun hc => by_contra fun hne => h.pendingReply_ne_can hne hc
  blockFits := h.blockFits
  inPayload := fun hs => by rw [Regs.StateForm, hs] at h; exact h.2
  atTrailer := fun hs => by
    rcases hs with hs | hs <;> rw [Regs.StateForm, hs] at h
    · exact h.2
    · exact h.1.2
  crcState := fun hs => by rw [Regs.StateForm, hs] at h; exact h.2 }

/-! ### Keeping the forms -/

/-- A name that fits is stored with its length; an open file has one if it is not empty. -/
theorem Regs.Forms.storeName {r : Regs} (h : r.Forms) {n : List Byte} (hn : n.length ≤ Config.fnameMax)
    {o : Option Handle} (ho : n ≠ [] ∨ o = none ∨ r.batchMode = false) :
    ({ r with currentFilename := Machine.storeName n r.currentFilename
              fnameLen := BitVec.ofNat 7 n.length, openFile := o } : Regs).Forms :=
  { h with
    nameStored := (storeName_length (hn.trans_eq h.nameStored.symm)).trans h.nameStored
    nameBound := (nameLen_toNat hn).trans_le hn
    batchNamed := fun hb hsome => by
      rcases ho with hne | hnone | hbatch
      · exact nameLen_ne_zero hn hne
      · exact absurd hnone hsome
      · exact absurd hb (Bool.eq_false_iff.1 hbatch) }

/-- Closing the file asks nothing of the name. -/
theorem Regs.Forms.close {r : Regs} (h : r.Forms) : ({ r with openFile := none } : Regs).Forms :=
  { h with batchNamed := fun _ ho => absurd rfl ho }

theorem sumByte_lt (acc : BitVec 16) (b : Byte) : (sumByte acc b).toNat < 256 := by
  rw [sumByte_toNat]
  exact Nat.mod_lt _ (by decide)

/-- Moving `acc` on by the session's update, and storing the byte (R140). -/
theorem Regs.Forms.storeByte {r : Regs} (h : r.Forms) {a : Nat} (ha : a < Config.bufPhys) (b : Byte) :
    ({ r with receiveBuffer := Memory.write r.receiveBuffer a b
              acc := engineByte r.crcMode r.acc b } : Regs).Forms :=
  { h with
    sumHigh := fun hsum => by
      have hacc : engineByte r.crcMode r.acc b = sumByte r.acc b := if_neg (Bool.eq_false_iff.1 hsum)
      simpa only [hacc] using sumByte_lt r.acc b
    bufferWf := Memory.write_wf h.bufferWf a b
    bufferRange := Memory.write_inRange h.bufferRange ha b }

/-! ### One consumed byte -/

theorem initReply_ne_can (crc : Bool) : initReply crc ≠ .can := by cases crc <;> decide

/-- New data gives the invariant back, whatever the state it is reached in. -/
theorem exec_vNew_inv {now : Time} {s t : State} (hf : s.regs.Forms) (hp : s.regs.pendingReply ≠ .can)
    (h : exec (.vNew now) s = .next t) : t.Inv := by
  obtain rfl | rfl | ⟨f, k, rfl | rfl⟩ := exec_vNew_next h
  · exact Regs.Forms.inv { hf with } (.inr rfl)
  · exact Regs.Forms.inv { hf with } hp
  · rw [writeBlock_countBlock_eq]
    exact Regs.Forms.inv { hf with } hp
  · rw [writeBlock_countBlock_eq]
    exact Regs.Forms.inv { hf with } (.inr rfl)

/-- So does a header. -/
theorem exec_vHdr_inv {s t : State} (hf : s.regs.Forms) (hp : s.regs.pendingReply ≠ .can)
    (h : exec .vHdr s = .next t) : t.Inv := by
  have hlen := headerName_length (headerPayload s)
  obtain rfl | ⟨hname, rfl | ⟨f, rfl⟩⟩ := exec_vHdr_next h
  · rw [enterIdle_eq]
    exact Regs.Forms.inv { hf with
      nameBound := Nat.zero_le _, batchNamed := fun _ ho => absurd rfl ho } ⟨rfl, hp⟩
  · have hstored := hf.storeName (o := none) hlen (.inr (.inl rfl))
    rw [openCurrent_nameNextFile_eq, raise_storage]
    exact Regs.Forms.inv { hstored with } (.inr rfl)
  · have hstored := hf.storeName (o := some f) hlen (.inl hname)
    rw [openCurrent_nameNextFile_eq]
    exact Regs.Forms.inv { hstored with } (initReply_ne_can _)

/-- So does a verdict. -/
theorem check_inv {m : Bool} {now : Time} {s t : State} (hf : s.regs.Forms)
    (h : check m now s = .next t) : t.Inv := by
  have hack : (emitReply .ack s).regs.Forms := { hf with }
  obtain rfl | hnew | hhdr | rfl := check_outcome h
  · exact Regs.Forms.inv { hf with } nofun
  · exact exec_vNew_inv hack nofun hnew
  · exact exec_vHdr_inv hack nofun hhdr
  · exact Regs.Forms.inv { hack with } nofun

/-- EOT keeps the invariant: without a file or a name the session ends, else it re-arms (R165). -/
theorem exec_bsEot_inv {now : Time} {s t : State} (hf : s.regs.Forms) (hp : s.regs.pendingReply ≠ .can)
    (h : exec (.bsEot now) s = .next t) : t.Inv := by
  have hclosed := hf.close
  obtain rfl | rfl := exec_bsEot_next h
  · rw [enterIdle_eq]
    exact Regs.Forms.inv { hclosed with } ⟨rfl, hp⟩
  · rw [afterEot_eq, closeFile_eq, State.Inv]
    dsimp only
    split_ifs
    · exact Regs.Forms.inv { hclosed with } (initReply_ne_can _)
    · exact Regs.Forms.inv { hclosed with } ⟨rfl, nofun⟩

theorem blockLen_le_1024 (l : BlockLen) : l.bytes ≤ 1024 := by cases l <;> decide

/-- STX fits when it is no capacity fault (R164). -/
theorem overCapacity_eq_false_iff (l : BlockLen) : overCapacity l = false ↔ 1024 ≤ l.bytes := by
  cases l <;> decide

/-- A fresh block's count is the block's length (R170). -/
theorem freshCount_toNat (l : BlockLen) : (BitVec.ofNat 11 l.bytes).toNat = l.bytes := by
  cases l <;> rfl

/-- Where the invariant holds, `cursor` is inside the physical buffer in `DataBlock`. -/
theorem Regs.Inv.cursor_lt {r : Regs} (h : r.Inv) (hs : r.state = .dataBlock) :
    r.cursor.toNat < Config.bufPhys := by
  obtain ⟨hcount, hsum⟩ := h.inPayload hs
  have hle := blockLen_le_1024 r.blockSize
  have hphys : Config.bufPhys = 1024 := rfl
  omega

/-- DB.BYTE keeps the invariant: the last byte completes the payload, another leaves one less (R140). -/
theorem exec_dbByte_inv {b : Byte} {now : Time} {s t : State} (hs : s.regs.state = .dataBlock)
    (hinv : s.Inv) (h : exec (.dbByte b now) s = .next t) : t.Inv := by
  have hcursor := hinv.cursor_lt hs
  have hflight : s.regs.InFlight := ⟨hinv.stateForm.pendingReply_ne_can (by rw [hs]; nofun),
    hinv.blockFits (by rw [hs]; rfl)⟩
  obtain ⟨hcount, hsum⟩ := hinv.inPayload hs
  have hc := toNat_cursor_succ hcursor
  have hn := toNat_count_pred hcount
  rw [exec_dbByte_of_lt hcursor] at h
  cases h
  have hforms := hinv.forms.storeByte hcursor b
  refine Regs.Forms.inv { hforms with } ?_
  by_cases hlast : s.regs.bytesRemainingInBlock - 1 = 0
  · have hone := (count_pred_eq_zero_iff _).1 hlast
    simp only [Regs.StateForm, if_pos hlast]
    exact ⟨hflight, by omega, by omega⟩
  · have hleft : s.regs.bytesRemainingInBlock.toNat ≠ 1 := fun h1 =>
      hlast ((count_pred_eq_zero_iff _).2 h1)
    simp only [Regs.StateForm, if_neg hlast, hs]
    exact ⟨hflight, by omega, by omega⟩

/-- BNC.BYTE keeps the invariant: a fault purges, a good block starts with its whole length to go (R170). -/
theorem exec_bncByte_inv {b : Byte} {now : Time} {s t : State} (hf : s.regs.Forms)
    (hflight : s.regs.InFlight) (h : exec (.bncByte b now) s = .next t) : t.Inv := by
  have hfresh : (freshBlock (preamble now s)).regs.Forms :=
    { hf with sumHigh := fun _ => Nat.zero_lt_succ 255 }
  rw [exec_bncByte] at h
  cases h
  split_ifs
  · have hcount := freshCount_toNat s.regs.blockSize
    have hpos := blockLen_ge_128 s.regs.blockSize
    refine Regs.Forms.inv { hfresh with } ⟨hflight, ?_, ?_⟩
    · exact hcount.symm ▸ (by omega)
    · exact (Nat.zero_add _).trans hcount
  · exact Regs.Forms.inv { hfresh with } (.inr rfl)
  · exact Regs.Forms.inv { hf with } (.inl rfl)

/-- STX keeps the invariant: against a small buffer it purges (R164). -/
theorem exec_bsStx_inv {now : Time} {s t : State} (hf : s.regs.Forms) (hp : s.regs.pendingReply ≠ .can)
    (h : exec (.bsStx now) s = .next t) : t.Inv := by
  rw [exec_bsStx] at h
  cases h
  split_ifs with hover
  · exact Regs.Forms.inv { hf with } (.inl rfl)
  · exact Regs.Forms.inv { hf with } ⟨hp, (overCapacity_eq_false_iff _).1 (Bool.eq_false_iff.2 hover)⟩

/-- DC.BYTE keeps the invariant: in CRC mode the trailer goes on, else it is the verdict (R173). -/
theorem exec_dcByte_inv {b : Byte} {now : Time} {s t : State} (hs : s.regs.state = .dataCheck)
    (hinv : s.Inv) (hflight : s.regs.InFlight) (h : exec (.dcByte b now) s = .next t) : t.Inv := by
  have hf := hinv.forms
  cases hcrc : s.regs.crcMode with
  | true =>
    rw [exec_dcByte_of_crc hcrc] at h
    cases h
    exact Regs.Forms.inv { hf with } ⟨⟨hflight, hinv.atTrailer (.inl hs)⟩, hcrc⟩
  | false =>
    rw [exec_dcByte_of_sum hcrc] at h
    exact check_inv (s := preamble now s) { hf with } h

theorem stepByte_of_idle {now : Time} {b : Byte} {s : State} (h : s.regs.state = .idle) :
    stepByte now b s = .next s := by
  simp only [stepByte, h]

/-- One consumed byte keeps the invariant. -/
theorem stepByte_inv {now : Time} {b : Byte} {s t : State} (hinv : s.Inv)
    (h : stepByte now b s = .next t) : t.Inv := by
  have hf := hinv.forms
  have hpre : (preamble now s).Inv := Regs.Forms.inv { hf with } hinv.stateForm
  have hp : ∀ st, s.regs.state = st → st ≠ .purge → s.regs.pendingReply ≠ .can :=
    fun st hst hne => hinv.stateForm.pendingReply_ne_can (hst.trans_ne hne)
  have hflight : ∀ st, s.regs.state = st → FsmState.inBlock st = true → s.regs.InFlight :=
    fun st hst hin => ⟨hp st hst (by rintro rfl; cases hin), hinv.blockFits (hst ▸ hin)⟩
  by_cases hidle : s.regs.state = .idle
  · rw [stepByte_of_idle hidle] at h
    cases h
    exact hinv
  obtain ⟨i, hi, -⟩ := decodeWire_spec hidle now b
  rw [stepByte_decoded hi] at h
  refine decodeWire_cases (P := fun i => exec i s = .next t → t.Inv) hi
    (fun hs h => ?soh) (fun hs h => ?stx) (fun hs h => ?eot) (fun hs h => ?other)
    (fun hs h => ?number) (fun hs h => ?complement) (fun hs h => ?data) (fun hs h => ?trailer)
    (fun hs h => ?trailerLow) (fun hs h => ?purged) h
  case soh =>
    rw [exec_bsSoh] at h
    cases h
    exact Regs.Forms.inv { hf with } ⟨hp _ hs nofun, blockLen_ge_128 _⟩
  case stx => exact exec_bsStx_inv hf (hp _ hs nofun) h
  case eot => exact exec_bsEot_inv hf (hp _ hs nofun) h
  case number =>
    rw [exec_bnByte] at h
    cases h
    exact Regs.Forms.inv { hf with } (hflight _ hs rfl)
  case complement => exact exec_bncByte_inv hf (hflight _ hs rfl) h
  case data => exact exec_dbByte_inv hs hinv h
  case trailer => exact exec_dcByte_inv hs hinv (hflight _ hs rfl) h
  case trailerLow => exact check_inv (s := preamble now s) { hf with } h
  case other | purged =>
    cases h
    exact hpre

end Sys2Proof.Machine
end

section
/-! PROOFS. Steps (00_scope.md R7): what a step that went on did, said once, and from it the invariant, the
progress and the running check. -/

namespace Sys2Proof.Machine

/-! ### What a step can do -/

/-- What a host command that answered did: it only answered, it was RESET, START or POLL. -/
theorem exec_host_next {i : Instr} {s t : State} (hi : i.format = .host) (h : exec i s = .next t) :
    (∃ r, t = answer r s) ∨ t = answer .nothing (setReply .nak (enterIdle s)) ∨
    (∃ now crc batch cap1k name size, exec (.start now crc batch cap1k name size) s = .next t) ∨
    ∃ now, exec (.poll now) s = .next t := by
  cases i with
  | nop | query | reserved5 | reserved6 | reserved7 => cases h; exact .inl ⟨_, rfl⟩
  | reset => cases h; exact .inr (.inl rfl)
  | start now crc batch cap1k name size => exact .inr (.inr (.inl ⟨now, crc, batch, cap1k, name, size, h⟩))
  | poll now => exact .inr (.inr (.inr ⟨now, h⟩))
  | _ => cases hi

/-- What a step that went on did: registers and calls as they were, a power-on reset, or a host command. -/
theorem step_next {s t : State} (h : step s = .next t) :
    (t.regs = s.regs ∧ t.calls = s.calls ∧ (t.tx = s.tx ∨ ∃ n, s.inputs.head? = some (.taken n))) ∨
    (s.inputs.head? = some .powerOn ∧ t.regs = Regs.reset ∧ t.calls = s.calls ∧ t.tx = s.tx) ∨
    ∃ i u, i.format = .host ∧ u.regs = s.regs ∧ u.calls = s.calls ∧ u.tx = s.tx ∧ exec i u = .next t := by
  cases hin : s.inputs with
  | nil =>
    rw [step_nil hin] at h
    cases h
    exact .inl ⟨rfl, rfl, .inl rfl⟩
  | cons input rest =>
    cases input with
    | command record =>
      cases hdec : decodeHost record with
      | error why =>
        rw [step_cons hin, runInput, runRecord, hdec] at h
        cases h
      | ok p =>
        obtain ⟨i, extra⟩ := p
        rw [step_command hin hdec] at h
        obtain ⟨now, hexec⟩ | rfl := runCommand_next _ h
        · exact .inr (.inr ⟨i, { s with inputs := rest, lastNow := now }, decodeHost_format hdec, rfl, rfl,
          rfl, hexec⟩)
        · exact .inl ⟨rfl, rfl, .inl rfl⟩
    | taken n =>
      rw [step_cons hin] at h
      cases h
      exact .inl ⟨rfl, rfl, .inr ⟨n, rfl⟩⟩
    | powerOn =>
      rw [step_cons hin] at h
      cases h
      exact .inr (.inl ⟨rfl, rfl, rfl, rfl⟩)
    | arrive | openAnswer | writeAnswer =>
      rw [step_cons hin] at h
      cases h
      exact .inl ⟨rfl, rfl, .inl rfl⟩

/-! ### The invariant -/

theorem timeoutStep_inv {s : State} (hinv : s.Inv) (now : Time) : (timeoutStep now s).Inv := by
  have hf := hinv.forms
  rw [State.Inv, timeoutStep_regs]
  split_ifs with hcan
  · exact Regs.Forms.inv { hf.close with } ⟨rfl, nofun⟩
  · exact Regs.Forms.inv { hf with } hcan

/-- POLL keeps the invariant, byte by byte (`stepByte_inv`). -/
theorem exec_poll_inv {now : Time} {s t : State} (hinv : s.Inv) (h : exec (.poll now) s = .next t) :
    t.Inv :=
  exec_poll_induct (P := State.Inv) (fun _ _ hs => hs) (fun _ _ hs => hs)
    (fun _ _ hs => timeoutStep_inv hs now)
    (fun b rest s _ _ hs hstep => stepByte_inv (s := takeByte b rest s) hs hstep) hinv h

/-- START keeps the invariant: a session begins in `BlockStart` with the initial reply pending, a file that
does not open leaves `Idle` (R241, R243). -/
theorem exec_start_inv {now : Time} {crc batch cap1k : Bool} {name : List Byte} {size : BitVec 32}
    {s t : State} (hinv : s.Inv) (h : exec (.start now crc batch cap1k name size) s = .next t) :
    t.Inv := by
  have hf := hinv.forms
  have hfile : ({ s.regs with crcMode := crc, batchMode := false, acc := 0 } : Regs).Forms :=
    { hf with sumHigh := fun _ => Nat.zero_lt_succ 255, batchNamed := nofun }
  obtain ⟨-, rfl⟩ | ⟨hidle, rfl | ⟨f, rfl⟩ | rfl⟩ := exec_start_next h
  · exact hinv
  · refine Regs.Forms.inv { hf with
      sumHigh := fun _ => Nat.zero_lt_succ 255, nameBound := Nat.zero_le _
      batchNamed := fun _ ho => absurd (hinv.idleClosed hidle) ho } (initReply_ne_can _)
  · have hnamed := hfile.storeName (o := some f) (boundName_length name) (.inr (.inr rfl))
    rw [openCurrent_nameSession_eq]
    exact Regs.Forms.inv { hnamed with } (initReply_ne_can _)
  · have hnamed := hfile.storeName (o := none) (boundName_length name) (.inr (.inr rfl))
    have hp := hinv.stateForm.pendingReply_ne_can (by rw [hidle]; nofun)
    rw [openCurrent_nameSession_eq]
    refine Regs.Forms.inv { hnamed with } ?_
    have hstate : (startRegs s.regs crc false cap1k (boundName name) size).state = .idle := hidle
    simp only [Regs.StateForm, answer_regs, setStorageError_regs, hstate]
    exact ⟨trivial, hp⟩

theorem exec_reset_inv {s : State} (hinv : s.Inv) : (setReply .nak (enterIdle s)).Inv := by
  have hclosed := hinv.forms.close
  rw [enterIdle_eq]
  exact Regs.Forms.inv { hclosed with } ⟨rfl, nofun⟩

theorem reset_inv : Regs.reset.Inv :=
  Regs.Forms.inv {
    sumHigh := fun _ => Nat.zero_lt_succ 255, nameStored := rfl, nameBound := Nat.zero_le _
    batchNamed := nofun, bufferWf := reset_buffer_wf, bufferRange := nofun } ⟨rfl, nofun⟩

/-- Every step keeps the invariant. -/
theorem step_inv {s t : State} (hinv : s.Inv) (h : step s = .next t) : t.Inv := by
  obtain ⟨hregs, -⟩ | ⟨-, hregs, -⟩ | ⟨i, u, hi, hu, -, -, hexec⟩ := step_next h
  · rwa [State.Inv, hregs]
  · rw [State.Inv, hregs]
    exact reset_inv
  · have huinv : u.Inv := by rwa [State.Inv, hu]
    obtain ⟨r, rfl⟩ | rfl | ⟨now, crc, batch, cap1k, name, size, hstart⟩ | ⟨now, hpoll⟩ :=
      exec_host_next hi hexec
    · exact huinv
    · exact exec_reset_inv huinv
    · exact exec_start_inv huinv hstart
    · exact exec_poll_inv huinv hpoll

/-- Settles O51: `step_inv` is the statement. -/
theorem stepKeepsInvariant : Obligations.StepKeepsInvariant := by
  unfold Obligations.StepKeepsInvariant
  exact fun _ _ => step_inv

/-! ### Progress -/

theorem exec_dcByte_goes (b : Byte) (now : Time) (s : State) : Goes (exec (.dcByte b now) s) := by
  cases hcrc : s.regs.crcMode with
  | true => exact ⟨_, exec_dcByte_of_crc hcrc⟩
  | false =>
    rw [exec_dcByte_of_sum hcrc]
    exact check_next _ _ _

/-- Where the invariant holds no byte stops the machine: `cursor` is inside the buffer in `DataBlock`. -/
theorem stepByte_goes {s : State} (hinv : s.Inv) (now : Time) (b : Byte) : Goes (stepByte now b s) := by
  by_cases hidle : s.regs.state = .idle
  · exact ⟨s, stepByte_of_idle hidle⟩
  obtain ⟨i, hi, -⟩ := decodeWire_spec hidle now b
  rw [stepByte_decoded hi]
  exact decodeWire_cases (P := fun i => Goes (exec i s)) hi
    (soh := fun _ => ⟨_, rfl⟩) (stx := fun _ => ⟨_, rfl⟩) (eot := fun _ => ⟨_, rfl⟩)
    (other := fun _ => ⟨_, rfl⟩) (number := fun _ => ⟨_, rfl⟩) (complement := fun _ => ⟨_, rfl⟩)
    (data := fun hs => ⟨_, exec_dbByte_of_lt (hinv.cursor_lt hs)⟩)
    (trailer := fun _ => exec_dcByte_goes b now s) (trailerLow := fun _ => check_next _ _ _)
    (purged := fun _ => ⟨_, rfl⟩)

theorem pollLoop_goes {now : Time} (bs : List Byte) : ∀ {s : State}, s.Inv → Goes (pollLoop now bs s) := by
  induction bs with
  | nil => exact fun {s} _ => ⟨s, rfl⟩
  | cons b rest ih =>
    intro s hinv
    by_cases hidle : s.regs.state = .idle
    · exact ⟨s, pollLoop_idle hidle⟩
    · have htaken : (takeByte b rest s).Inv := hinv
      obtain ⟨u, hu⟩ := stepByte_goes htaken now b
      obtain ⟨t, ht⟩ := ih (stepByte_inv htaken hu)
      exact ⟨t, (pollLoop_cons_of_running hidle).2 ⟨u, hu, ht⟩⟩

theorem pollRunning_goes {s : State} (hinv : s.Inv) (now : Time) : Goes (pollRunning now s) := by
  by_cases hrx : s.rx = []
  · rw [pollRunning, if_pos hrx]
    exact ⟨_, rfl⟩
  · rw [pollRunning_of_bytes hrx]
    exact pollLoop_goes (s := s.call _) _ hinv

theorem exec_poll_goes {s : State} (hinv : s.Inv) (now : Time) : Goes (exec (.poll now) s) := by
  by_cases hidle : s.regs.state = .idle
  · exact ⟨_, exec_poll_of_idle hidle⟩
  · obtain ⟨t, ht⟩ := pollRunning_goes hinv now
    rw [exec_poll_of_running hidle, ht]
    exact ⟨_, rfl⟩

/-- Settles O40: the loop goes on byte by byte (`exec_poll_goes`), keeps the invariant, and answers. -/
theorem pollAlwaysCompletes : Obligations.PollAlwaysCompletes := by
  unfold Obligations.PollAlwaysCompletes
  intro now s hinv
  obtain ⟨t, ht⟩ := exec_poll_goes hinv now
  obtain ⟨u, rfl, -⟩ := exec_poll_next ht
  exact ⟨_, ht, exec_poll_inv hinv ht, rfl⟩

/-- Where the invariant holds every host command answers. -/
theorem exec_host_goes {i : Instr} {s : State} (hi : i.format = .host) (hinv : s.Inv) : Goes (exec i s) := by
  cases i with
  | poll now => exact exec_poll_goes hinv now
  | nop | start | reset | query | reserved5 | reserved6 | reserved7 => exact ⟨_, rfl⟩
  | _ => cases hi

theorem runCommand_goes {i : Instr} {s : State} (hi : i.format = .host) (hinv : s.Inv) :
    Goes (runCommand i s) := by
  rcases runCommand_cases s i with ⟨-, h⟩ | ⟨now, -, ⟨-, h⟩ | ⟨-, -, h⟩⟩ <;> rw [h]
  · exact exec_host_goes hi hinv
  · exact exec_host_goes hi hinv
  · exact ⟨_, rfl⟩

/-- Settles O53: by the next input; a command record goes on if it decodes (`runCommand_goes`). -/
theorem stepGoesOn : Obligations.StepGoesOn := by
  unfold Obligations.StepGoesOn
  intro s hinv
  cases hin : s.inputs with
  | nil => exact .inl ⟨_, step_nil hin⟩
  | cons input rest =>
    cases input with
    | command record =>
      cases hdec : decodeHost record with
      | error why =>
        refine .inr ⟨record, rest, why, rfl, hdec, ?_⟩
        rw [step_cons hin, runInput, runRecord, hdec]
      | ok p =>
        rw [step_command hin hdec]
        exact .inl (runCommand_goes (decodeHost_format hdec) hinv)
    | _ => exact .inl ⟨_, step_cons hin⟩

/-! ### The running check -/

/-- Outside the payload and its trailer the running check says nothing. -/
theorem State.RunningCheck.of_state {s : State} (h : s.regs.state ≠ .dataBlock ∧
    s.regs.state ≠ .dataCheck ∧ s.regs.state ≠ .dataCheckCrc) : s.RunningCheck := by
  obtain ⟨hdata, hcheck, hcrc⟩ := h
  rintro (hs | hs | hs)
  · exact absurd hs hdata
  · exact absurd hs hcheck
  · exact absurd hs hcrc

theorem State.RunningCheck.of_regs {s t : State} (h : s.RunningCheck) (hregs : t.regs = s.regs) :
    t.RunningCheck := by
  rw [State.RunningCheck, hregs, memRead_of_buffer (congrArg Regs.receiveBuffer hregs)]
  exact h

/-- The check value of a payload one byte longer. -/
theorem payloadCheck_append_singleton (crc : Bool) (p : List Byte) (b : Byte) :
    payloadCheck crc (p ++ [b]) = engineByte crc (payloadCheck crc p) b := by
  simp only [payloadCheck, List.foldl_append, List.foldl_cons, List.foldl_nil]

/-- The bytes below `cursor` after one more is stored there. -/
theorem memRead_succ_memWrite {s : State} (hwf : Memory.wf s.regs.receiveBuffer) (n : Nat) (b : Byte) :
    memRead 0 (n + 1) (memWrite n b s) = memRead 0 n s ++ [b] := by
  rw [memRead_succ, memRead_write_below n n b s (Nat.le_refl n)]
  exact congrArg (fun c => memRead 0 n s ++ [c]) (Memory.read_write_self hwf n b)

/-- DB.BYTE moves `acc` on with the payload (R140, R141). -/
theorem exec_dbByte_runningCheck {b : Byte} {now : Time} {s t : State} (hs : s.regs.state = .dataBlock)
    (hinv : s.Inv) (hrc : s.RunningCheck) (h : exec (.dbByte b now) s = .next t) : t.RunningCheck := by
  have hcursor := hinv.cursor_lt hs
  rw [exec_dbByte_of_lt hcursor] at h
  cases h
  intro _
  have hpayload := memRead_succ_memWrite hinv.bufferWf s.regs.cursor.toNat b
  dsimp only
  rw [hrc (.inl hs), ← payloadCheck_append_singleton, ← hpayload, toNat_cursor_succ hcursor]
  rfl

/-- EOT leads out of the payload: to `Idle`, or re-armed to `BlockStart` (R165). -/
theorem exec_bsEot_runningCheck {now : Time} {s t : State} (h : exec (.bsEot now) s = .next t) :
    t.RunningCheck := by
  obtain rfl | rfl := exec_bsEot_next h
  · rw [enterIdle_eq]
    exact .of_state ⟨nofun, nofun, nofun⟩
  · rw [afterEot_eq]
    refine .of_state ?_
    dsimp only
    split_ifs <;> exact ⟨nofun, nofun, nofun⟩

/-- A verdict leads out of the payload (R175 to R179). -/
theorem check_runningCheck {m : Bool} {now : Time} {s t : State} (h : check m now s = .next t) :
    t.RunningCheck := by
  refine .of_state ?_
  obtain ⟨-, -, hs | hs | hs⟩ := check_frame h <;> rw [hs] <;> exact ⟨nofun, nofun, nofun⟩

theorem exec_dcByte_runningCheck {b : Byte} {now : Time} {s t : State} (hs : s.regs.state = .dataCheck)
    (hrc : s.RunningCheck) (h : exec (.dcByte b now) s = .next t) : t.RunningCheck := by
  cases hcrc : s.regs.crcMode with
  | true =>
    rw [exec_dcByte_of_crc hcrc] at h
    cases h
    exact fun _ => hrc (.inr (.inl hs))
  | false =>
    rw [exec_dcByte_of_sum hcrc] at h
    exact check_runningCheck h

/-- One consumed byte keeps the running check. -/
theorem stepByte_runningCheck {now : Time} {b : Byte} {s t : State} (hinv : s.Inv)
    (hrc : s.RunningCheck) (h : stepByte now b s = .next t) : t.RunningCheck := by
  by_cases hidle : s.regs.state = .idle
  · rw [stepByte_of_idle hidle] at h
    cases h
    exact hrc
  obtain ⟨i, hi, -⟩ := decodeWire_spec hidle now b
  rw [stepByte_decoded hi] at h
  refine decodeWire_cases (P := fun i => exec i s = .next t → t.RunningCheck) hi
    (fun hs h => ?soh) (fun hs h => ?stx) (fun hs h => ?eot) (fun hs h => ?other)
    (fun hs h => ?number) (fun hs h => ?complement) (fun hs h => ?data) (fun hs h => ?trailer)
    (fun hs h => ?trailerLow) (fun hs h => ?purged) h
  case soh | number =>
    cases h
    exact .of_state ⟨nofun, nofun, nofun⟩
  case stx =>
    rw [exec_bsStx] at h
    cases h
    split_ifs <;> exact .of_state ⟨nofun, nofun, nofun⟩
  case eot => exact exec_bsEot_runningCheck h
  case complement =>
    rw [exec_bncByte] at h
    cases h
    split_ifs
    · exact fun _ => rfl
    · exact .of_state ⟨nofun, nofun, nofun⟩
    · exact .of_state ⟨nofun, nofun, nofun⟩
  case data => exact exec_dbByte_runningCheck hs hinv hrc h
  case trailer => exact exec_dcByte_runningCheck hs hrc h
  case trailerLow => exact check_runningCheck h
  case other | purged =>
    cases h
    exact hrc

/-- The timeout step leads out of the payload (R222). -/
theorem timeoutStep_runningCheck (now : Time) (s : State) : (timeoutStep now s).RunningCheck := by
  refine .of_state ?_
  rw [timeoutStep_regs]
  split_ifs <;> exact ⟨nofun, nofun, nofun⟩

/-- POLL keeps the running check beside the invariant, byte by byte. -/
theorem exec_poll_runningCheck {now : Time} {s t : State} (hinv : s.Inv) (hrc : s.RunningCheck)
    (h : exec (.poll now) s = .next t) : t.RunningCheck :=
  (exec_poll_induct (P := fun u => u.Inv ∧ u.RunningCheck) (fun _ _ hu => hu) (fun _ _ hu => hu)
    (fun u _ hu => ⟨timeoutStep_inv hu.1 now, timeoutStep_runningCheck now u⟩)
    (fun b rest u _ _ hu hstep => ⟨stepByte_inv (s := takeByte b rest u) hu.1 hstep,
      stepByte_runningCheck (s := takeByte b rest u) hu.1 hu.2 hstep⟩) ⟨hinv, hrc⟩ h).2

theorem exec_start_runningCheck {now : Time} {crc batch cap1k : Bool} {name : List Byte}
    {size : BitVec 32} {s t : State} (hrc : s.RunningCheck)
    (h : exec (.start now crc batch cap1k name size) s = .next t) : t.RunningCheck := by
  obtain ⟨-, rfl⟩ | ⟨hidle, rfl | ⟨f, rfl⟩ | rfl⟩ := exec_start_next h
  · exact hrc
  · exact .of_state ⟨nofun, nofun, nofun⟩
  · exact .of_state ⟨nofun, nofun, nofun⟩
  · refine .of_state ?_
    rw [openCurrent_nameSession_eq]
    have hstate : (startRegs s.regs crc false cap1k (boundName name) size).state = .idle := hidle
    simp only [answer_regs, setStorageError_regs, hstate]
    exact ⟨nofun, nofun, nofun⟩

/-- Every step keeps the running check. -/
theorem step_runningCheck {s t : State} (hinv : s.Inv) (hrc : s.RunningCheck) (h : step s = .next t) :
    t.RunningCheck := by
  obtain ⟨hregs, -⟩ | ⟨-, hregs, -⟩ | ⟨i, u, hi, hu, -, -, hexec⟩ := step_next h
  · exact hrc.of_regs hregs
  · refine .of_state ?_
    rw [hregs]
    exact ⟨nofun, nofun, nofun⟩
  · have huinv : u.Inv := by rwa [State.Inv, hu]
    have hurc := hrc.of_regs hu
    obtain ⟨r, rfl⟩ | rfl | ⟨now, crc, batch, cap1k, name, size, hstart⟩ | ⟨now, hpoll⟩ :=
      exec_host_next hi hexec
    · exact hurc
    · refine .of_state ?_
      rw [enterIdle_eq]
      exact ⟨nofun, nofun, nofun⟩
    · exact exec_start_runningCheck hurc hstart
    · exact exec_poll_runningCheck huinv hurc hpoll

/-- Settles O52: `step_runningCheck` is the statement. -/
theorem stepKeepsRunningCheck : Obligations.StepKeepsRunningCheck := by
  unfold Obligations.StepKeepsRunningCheck
  exact fun _ _ => step_runningCheck

/-- Settles O50: `reset_inv`, and `Idle` holds no payload. -/
theorem resetHasInvariant : Obligations.ResetHasInvariant := by
  unfold Obligations.ResetHasInvariant
  exact ⟨reset_inv, .of_state ⟨nofun, nofun, nofun⟩⟩

end Sys2Proof.Machine
end

section
/-! PROOFS. Whole-machine rules: what no step does to the buffer, the modes and the TX stream
(41_block_assembler.md, 10_state.md, 20_memory.md, 30_encoding.md). -/

namespace Sys2Proof.Machine

/-! ### Only DB.BYTE stores -/

theorem exec_bsEot_buffer {now : Time} {s t : State} (h : exec (.bsEot now) s = .next t) :
    t.regs.receiveBuffer = s.regs.receiveBuffer := by
  obtain rfl | rfl := exec_bsEot_next h
  · simp
  · rw [afterEot_eq]
    dsimp only
    split_ifs <;> simp

theorem exec_dcByte_buffer {b : Byte} {now : Time} {s t : State} (h : exec (.dcByte b now) s = .next t) :
    t.regs.receiveBuffer = s.regs.receiveBuffer := by
  cases hcrc : s.regs.crcMode with
  | true =>
    rw [exec_dcByte_of_crc hcrc] at h
    cases h
    rfl
  | false =>
    rw [exec_dcByte_of_sum hcrc] at h
    exact (check_frame h).2.1

theorem exec_vNew_buffer {now : Time} {s t : State} (h : exec (.vNew now) s = .next t) :
    t.regs.receiveBuffer = s.regs.receiveBuffer := by
  obtain rfl | rfl | ⟨f, k, rfl | rfl⟩ := exec_vNew_next h <;> simp [raise_storage]

theorem exec_vHdr_buffer {s t : State} (h : exec .vHdr s = .next t) :
    t.regs.receiveBuffer = s.regs.receiveBuffer := by
  obtain rfl | ⟨-, rfl | ⟨f, rfl⟩⟩ := exec_vHdr_next h <;> simp [raise_storage]

theorem exec_fileOpen_buffer {s t : State} (h : exec .fileOpen s = .next t) :
    t.regs.receiveBuffer = s.regs.receiveBuffer := by
  cases hopen : s.openReply with
  | none =>
    rw [exec_fileOpen_of_none hopen, openCurrent_eq, openFailed] at h
    cases h
    split_ifs <;> rfl
  | some f =>
    rw [exec_fileOpen_of_some hopen, openCurrent_eq] at h
    cases h
    rfl

theorem exec_start_buffer {now : Time} {crc batch cap1k : Bool} {name : List Byte} {size : BitVec 32}
    {s t : State} (h : exec (.start now crc batch cap1k name size) s = .next t) :
    t.regs.receiveBuffer = s.regs.receiveBuffer := by
  obtain ⟨-, rfl⟩ | ⟨-, rfl | ⟨f, rfl⟩ | rfl⟩ := exec_start_next h
  · rfl
  · rfl
  · rw [openCurrent_nameSession_eq]; rfl
  · rw [openCurrent_nameSession_eq]; rfl

theorem timeoutStep_buffer (now : Time) (s : State) :
    (timeoutStep now s).regs.receiveBuffer = s.regs.receiveBuffer := by
  rw [timeoutStep_regs]
  split_ifs <;> rfl

/-- No operation but DB.BYTE, POLL and RST writes the buffer (R62). -/
theorem exec_buffer {i : Instr} {s t : State} (hdb : ∀ b now, i ≠ .dbByte b now)
    (hpoll : ∀ now, i ≠ .poll now) (hrst : i ≠ .rst) (h : exec i s = .next t) :
    t.regs.receiveBuffer = s.regs.receiveBuffer := by
  cases i with
  | dbByte b now => exact absurd rfl (hdb b now)
  | poll now => exact absurd rfl (hpoll now)
  | rst => exact absurd rfl hrst
  | bsStx now =>
    rw [exec_bsStx] at h
    cases h
    split_ifs <;> rfl
  | bncByte b now =>
    rw [exec_bncByte] at h
    cases h
    split_ifs <;> rfl
  | bsEot now => exact exec_bsEot_buffer h
  | dcByte b now => exact exec_dcByte_buffer h
  | dccByte b now => exact (check_frame (s := preamble now s) h).2.1
  | start now crc batch cap1k name size => exact exec_start_buffer h
  | reset =>
    rw [exec_reset, enterIdle_eq] at h
    cases h
    rfl
  | timeout now =>
    cases h
    exact timeoutStep_buffer now s
  | toAbort =>
    rw [exec_toAbort, closeFile_eq] at h
    cases h
    rfl
  | verdict now => exact (check_frame (m := true) h).2.1
  | vNew now => exact exec_vNew_buffer h
  | vHdr => exact exec_vHdr_buffer h
  | fileOpen => exact exec_fileOpen_buffer h
  | enterIdle =>
    rw [exec_enterIdle, enterIdle_eq] at h
    cases h
    rfl
  | _ => cases h; rfl

/-- Settles O56: `exec_buffer`, and a read depends on nothing but the buffer. -/
theorem onlyDataBytesAreStored : Obligations.OnlyDataBytesAreStored := by
  unfold Obligations.OnlyDataBytesAreStored
  intro i s t hdb hpoll hrst h a
  rw [State.readByte, exec_buffer hdb hpoll hrst h, State.readByte]

/-! ### Stores stay below the capacity -/

/-- The bytes of `s` at and above a capacity are those of `t`, and the capacity is the same. -/
def SameAbove (s t : State) : Prop :=
  t.regs.bufferCapacity = s.regs.bufferCapacity ∧
    ∀ a, s.regs.bufferCapacity.bytes ≤ a → t.readByte a = s.readByte a

theorem readByte_of_buffer {s t : State} (h : t.regs.receiveBuffer = s.regs.receiveBuffer) (a : Nat) :
    t.readByte a = s.readByte a := by
  rw [State.readByte, h, State.readByte]

theorem timeoutStep_capacity (now : Time) (s : State) :
    (timeoutStep now s).regs.bufferCapacity = s.regs.bufferCapacity := by
  rw [timeoutStep_regs]
  split_ifs <;> rfl

/-- One consumed byte stores below the capacity: in `DataBlock`, `cursor` is below `block_size` (R145). -/
theorem stepByte_sameAbove {now : Time} {b : Byte} {s t : State} (hinv : s.Inv)
    (h : stepByte now b s = .next t) : SameAbove s t := by
  refine ⟨(stepByte_frame h).bufferCapacity, fun a ha => ?_⟩
  obtain hsame | ⟨hs, -, hwrite⟩ := stepByte_buffer h
  · exact readByte_of_buffer hsame a
  · obtain ⟨hcount, hsum⟩ := hinv.inPayload hs
    have hfits := hinv.blockFits (by rw [hs]; rfl)
    rw [State.readByte, hwrite]
    exact Memory.read_write_ne _ b (by omega)

theorem SameAbove.trans {s t u : State} (h : SameAbove s t) (k : SameAbove t u) : SameAbove s u :=
  ⟨k.1.trans h.1, fun a ha => (k.2 a (h.1 ▸ ha)).trans (h.2 a ha)⟩

theorem exec_poll_sameAbove {now : Time} {s t : State} (hinv : s.Inv) (h : exec (.poll now) s = .next t) :
    SameAbove s t :=
  (exec_poll_induct (P := fun u => u.Inv ∧ SameAbove s u) (fun _ _ hu => hu) (fun _ _ hu => hu)
    (fun u _ hu => ⟨timeoutStep_inv hu.1 now, hu.2.trans
      ⟨timeoutStep_capacity now u, fun a _ => readByte_of_buffer (timeoutStep_buffer now u) a⟩⟩)
    (fun b rest u _ _ hu hstep => ⟨stepByte_inv (s := takeByte b rest u) hu.1 hstep,
      hu.2.trans (stepByte_sameAbove (s := takeByte b rest u) hu.1 hstep)⟩)
    ⟨hinv, rfl, fun _ _ => rfl⟩ h).2

/-- No step but power-on reset stores at or above the capacity it starts with (R145). -/
theorem step_readByte_above {s t : State} (hinv : s.Inv) (h : step s = .next t)
    (hon : s.inputs.head? ≠ some .powerOn) {a : Nat} (ha : s.regs.bufferCapacity.bytes ≤ a) :
    t.readByte a = s.readByte a := by
  obtain ⟨hregs, -⟩ | ⟨hon', -⟩ | ⟨i, u, hi, hu, -, -, hexec⟩ := step_next h
  · exact readByte_of_buffer (congrArg Regs.receiveBuffer hregs) a
  · exact absurd hon' hon
  · have huinv : u.Inv := by rwa [State.Inv, hu]
    have hread : u.readByte a = s.readByte a := readByte_of_buffer (congrArg Regs.receiveBuffer hu) a
    rw [← hread]
    by_cases hpoll : ∃ now, i = .poll now
    · obtain ⟨now, rfl⟩ := hpoll
      exact (exec_poll_sameAbove huinv hexec).2 a (hu ▸ ha)
    · refine readByte_of_buffer (exec_buffer ?_ (fun now hp => hpoll ⟨now, hp⟩) ?_ hexec) a
      · rintro b now rfl; cases hi
      · rintro rfl; cases hi

/-- A 1024-byte block in flight needs the capacity 1024. -/
theorem bufferCapacity_of_long_block {s : State} (hinv : s.Inv) (hs : s.regs.state = .dataBlock)
    (hlong : s.regs.blockSize.bytes = 1024) : s.regs.bufferCapacity.bytes = 1024 :=
  Nat.le_antisymm (blockLen_le_1024 _) (hlong ▸ hinv.blockFits (by rw [hs]; rfl))

/-- The first POLL past the deadline re-sends a pending NAK and returns to `BlockStart` (R222, R223). -/
theorem exec_poll_resends_nak {later : Time} {s : State} (hrun : s.regs.state ≠ .idle) (hrx : s.rx = [])
    (hnak : s.regs.pendingReply = .nak) (hpast : s.regs.deadline < later) :
    ∃ u, exec (.poll later) s = .next u ∧ u.tx = s.tx ++ [0x15#8] ∧ u.regs.state = .blockStart := by
  have hask : (s.call (.rxAvailable 0)).regs.pendingReply = .nak := hnak
  have hretry : timeoutStep later (s.call (.rxAvailable 0)) =
      timeoutRetry later (sendByte 0x15#8 (s.call (.rxAvailable 0))) := by
    rw [timeoutStep, hask]
    rfl
  rw [exec_poll_of_running hrun, pollRunning_of_timeout hrx hpast, hretry]
  exact ⟨_, rfl, rfl, rfl⟩

/-- Settles O55: `step_readByte_above`, `bufferCapacity_of_long_block`, and STX against 128 bytes
(`stxChecksCapacity`) with the POLL that follows it (`exec_poll_resends_nak`). -/
theorem storesStayInCapacity : Obligations.StoresStayInCapacity := by
  unfold Obligations.StoresStayInCapacity
  refine ⟨fun s t hinv h hon a ha => step_readByte_above hinv h hon ha,
    fun s => bufferCapacity_of_long_block, fun now s hcap => ?_⟩
  exact ⟨_, (stxChecksCapacity now s).2 hcap, rfl, rfl, fun _ => rfl,
    fun later hpast hrx => exec_poll_resends_nak nofun hrx rfl hpast⟩

/-! ### The modes of a session -/

/-- The session's modes are the same. -/
def SameModes (s t : State) : Prop :=
  t.regs.crcMode = s.regs.crcMode ∧ t.regs.batchMode = s.regs.batchMode ∧
    t.regs.bufferCapacity = s.regs.bufferCapacity

theorem SameModes.trans {s t u : State} (h : SameModes s t) (k : SameModes t u) : SameModes s u :=
  ⟨k.1.trans h.1, k.2.1.trans h.2.1, k.2.2.trans h.2.2⟩

theorem timeoutStep_sameModes (now : Time) (s : State) : SameModes s (timeoutStep now s) := by
  rw [SameModes, timeoutStep_regs]
  split_ifs <;> exact ⟨rfl, rfl, rfl⟩

theorem stepByte_sameModes {now : Time} {b : Byte} {s t : State} (h : stepByte now b s = .next t) :
    SameModes s t :=
  ⟨(stepByte_frame h).crcMode, (stepByte_frame h).batchMode, (stepByte_frame h).bufferCapacity⟩

theorem exec_poll_sameModes {now : Time} {s t : State} (h : exec (.poll now) s = .next t) :
    SameModes s t :=
  exec_poll_induct (P := SameModes s) (fun _ _ hu => hu) (fun _ _ hu => hu)
    (fun u _ hu => hu.trans (timeoutStep_sameModes now u))
    (fun b rest u _ _ hu hstep => hu.trans (stepByte_sameModes (s := takeByte b rest u) hstep))
    ⟨rfl, rfl, rfl⟩ h

/-- Settles O54: outside `Idle` a START is refused, and the other commands keep the modes. -/
theorem modesFixedForSession : Obligations.ModesFixedForSession := by
  unfold Obligations.ModesFixedForSession
  intro s t h hrun hon
  obtain ⟨hregs, -⟩ | ⟨hon', -⟩ | ⟨i, u, hi, hu, -, -, hexec⟩ := step_next h
  · rw [hregs]
    exact ⟨rfl, rfl, rfl⟩
  · exact absurd hon' hon
  · have hurun : u.regs.state ≠ .idle := by rwa [hu]
    rw [← hu]
    obtain ⟨r, rfl⟩ | rfl | ⟨now, crc, batch, cap1k, name, size, hstart⟩ | ⟨now, hpoll⟩ :=
      exec_host_next hi hexec
    · exact ⟨rfl, rfl, rfl⟩
    · rw [enterIdle_eq]
      exact ⟨rfl, rfl, rfl⟩
    · rw [exec_start_of_running hurun] at hstart
      cases hstart
      exact ⟨rfl, rfl, rfl⟩
    · exact exec_poll_sameModes hpoll

/-! ### What is sent -/

/-- The calls added from `s` to `t` send reply bytes only, the bytes the TX stream has grown by. -/
def AddsReplies (s t : State) : Prop :=
  ∃ added sent, t.calls = s.calls ++ added ∧ t.tx = s.tx ++ sent ∧ SendsReplies added sent

theorem AddsReplies.trans {s t u : State} (h : AddsReplies s t) (k : AddsReplies t u) : AddsReplies s u := by
  obtain ⟨a, x, ha, hx, hs⟩ := h
  obtain ⟨b, y, hb, hy, ht⟩ := k
  exact ⟨a ++ b, x ++ y, by rw [hb, ha, List.append_assoc], by rw [hy, hx, List.append_assoc],
    ht.append hs⟩

theorem Sends.addsReplies {s t : State} (h : Sends s t) : AddsReplies s t := by
  obtain ⟨added, sent, hcalls, htx, hsends, -⟩ := h
  exact ⟨added, sent, hcalls, htx, hsends⟩

theorem AddsReplies.of_eq {s t : State} (hc : t.calls = s.calls) (ht : t.tx = s.tx) : AddsReplies s t :=
  (Sends.of_eq hc ht).addsReplies

theorem AddsReplies.ask (n : Nat) (s : State) : AddsReplies s (s.call (.rxAvailable n)) :=
  ⟨[.rxAvailable n], [], rfl, (List.append_nil _).symm, rfl⟩

theorem AddsReplies.take (b : Byte) (rest : List Byte) (s : State) : AddsReplies s (takeByte b rest s) :=
  ⟨[.rxRead b], [], rfl, (List.append_nil _).symm, rfl⟩

theorem exec_poll_addsReplies {now : Time} {s t : State} (h : exec (.poll now) s = .next t) :
    AddsReplies s t :=
  exec_poll_induct (P := AddsReplies s) (fun _ _ hu => hu) (fun n u hu => hu.trans (.ask n u))
    (fun u _ hu => hu.trans (Sends.timeout now u).addsReplies)
    (fun b rest u _ _ hu hstep => (hu.trans (.take b rest u)).trans (stepByte_frame hstep).sends.addsReplies)
    (.of_eq rfl rfl) h

/-- START sends the initial reply, after the storage calls of opening its file (R241). -/
theorem exec_start_sends {now : Time} {crc batch cap1k : Bool} {name : List Byte} {size : BitVec 32}
    {s t : State} (h : exec (.start now crc batch cap1k name size) s = .next t) : Sends s t := by
  have hbegin : ∀ u, Sends u (beginSession now u) := fun u => Sends.send _ u
  have hname : ∀ b, Sends s (nameSession name size (newSession crc b cap1k s)) := fun b => by
    rw [nameSession_eq]
    exact .of_eq rfl rfl
  obtain ⟨-, rfl⟩ | ⟨-, rfl | ⟨f, rfl⟩ | rfl⟩ := exec_start_next h
  · exact .of_eq rfl rfl
  · exact (hname true).trans (hbegin _)
  · exact ((hname false).trans (Sends.openCurrent _)).trans (hbegin _)
  · exact (hname false).trans (Sends.openCurrent _)

/-- Settles O57: each command's calls, POLL's byte by byte (`exec_poll_addsReplies`). -/
theorem onlyRepliesAreSent : Obligations.OnlyRepliesAreSent := by
  unfold Obligations.OnlyRepliesAreSent
  intro s t h htaken
  obtain ⟨-, hcalls, htx | ⟨n, hn⟩⟩ | ⟨-, -, hcalls, htx⟩ | ⟨i, u, hi, -, hcalls, htx, hexec⟩ := step_next h
  · exact AddsReplies.of_eq hcalls htx
  · exact absurd hn (htaken n)
  · exact AddsReplies.of_eq hcalls htx
  · refine AddsReplies.trans (t := u) (.of_eq hcalls htx) ?_
    obtain ⟨r, rfl⟩ | rfl | ⟨now, crc, batch, cap1k, name, size, hstart⟩ | ⟨now, hpoll⟩ :=
      exec_host_next hi hexec
    · exact .of_eq rfl rfl
    · exact (Sends.close u).addsReplies
    · exact (exec_start_sends hstart).addsReplies
    · exact exec_poll_addsReplies hpoll

end Sys2Proof.Machine
end

section
/-! PROOFS. Whole blocks (95_test_vectors.md T4 to T6): a POLL over a waiting frame reaches the verdict on
the payload it carries, the bytes in the buffer, and nothing sent or stored before. -/

namespace Sys2Proof.Machine

/-! ### The loop, forwards -/

theorem pollLoop_cons_eq {now : Time} {b : Byte} {rest : List Byte} {s u : State}
    (hrun : s.regs.state ≠ .idle) (h : stepByte now b (takeByte b rest s) = .next u) :
    pollLoop now (b :: rest) s = pollLoop now rest u := by
  rw [pollLoop, if_neg hrun, h]

theorem pollLoop_last {now : Time} {b : Byte} {s : State} (hrun : s.regs.state ≠ .idle) :
    pollLoop now [b] s = stepByte now b (takeByte b [] s) := by
  rw [pollLoop, if_neg hrun]
  cases stepByte now b (takeByte b [] s) <;> rfl

/-! ### What receiving a block leaves alone -/

/-- What no byte of a block changes before the verdict: the session's modes, file and block counter, and
what has been sent and stored. -/
structure Kept (s u : State) : Prop where
  crcMode : u.regs.crcMode = s.regs.crcMode
  batchMode : u.regs.batchMode = s.regs.batchMode
  expected : u.regs.expectedBlockNumber = s.regs.expectedBlockNumber
  fileBytes : u.regs.fileBytesRemaining = s.regs.fileBytesRemaining
  openFile : u.regs.openFile = s.regs.openFile
  filename : u.regs.currentFilename = s.regs.currentFilename
  fnameLen : u.regs.fnameLen = s.regs.fnameLen
  tx : u.tx = s.tx
  storageCalls : u.storageCalls = s.storageCalls
  writeReply : u.writeReply = s.writeReply

theorem Kept.trans {s u v : State} (h : Kept s u) (k : Kept u v) : Kept s v :=
  ⟨k.crcMode.trans h.crcMode, k.batchMode.trans h.batchMode, k.expected.trans h.expected,
    k.fileBytes.trans h.fileBytes, k.openFile.trans h.openFile, k.filename.trans h.filename,
    k.fnameLen.trans h.fnameLen, k.tx.trans h.tx, k.storageCalls.trans h.storageCalls,
    k.writeReply.trans h.writeReply⟩

/-- A call on the receive queue is no storage call. -/
theorem storageCalls_call {s : State} {c : Call} (h : c.isStorage = false) :
    (s.call c).storageCalls = s.storageCalls := by
  simp [State.storageCalls, h]

theorem Kept.ask (n : Nat) (s : State) : Kept s (s.call (.rxAvailable n)) :=
  ⟨rfl, rfl, rfl, rfl, rfl, rfl, rfl, rfl, storageCalls_call rfl, rfl⟩

theorem Kept.take (b : Byte) (rest : List Byte) (s : State) : Kept s (takeByte b rest s) :=
  ⟨rfl, rfl, rfl, rfl, rfl, rfl, rfl, rfl, storageCalls_call (c := .rxRead b) rfl, rfl⟩

/-! ### Header and number pair -/

/-- An update of registers that keeps the session's does keep it. -/
theorem Kept.update {s u : State} {r : Regs} (h : Kept s u) (hr : r = { u.regs with
    state := r.state, blockNumber := r.blockNumber, blockSize := r.blockSize, deadline := r.deadline
    receiveBuffer := r.receiveBuffer, bytesRemainingInBlock := r.bytesRemainingInBlock
    cursor := r.cursor, acc := r.acc, trailerHi := r.trailerHi }) :
    Kept s { u with regs := r } := by
  rw [hr]
  exact h.trans ⟨rfl, rfl, rfl, rfl, rfl, rfl, rfl, rfl, rfl, rfl⟩

/-- The header byte of a block that fits (R163, R164). -/
theorem stepByte_headerByte {now : Time} {l : BlockLen} {s : State} (hs : s.regs.state = .blockStart)
    (hfits : l.bytes ≤ s.regs.bufferCapacity.bytes) (rest : List Byte) :
    ∃ u, stepByte now (headerByte l) (takeByte (headerByte l) rest s) = .next u ∧
      u.regs.state = .blockNumber ∧ u.regs.blockSize = l ∧ Kept s u := by
  have hdec : ∀ i, decodeWire .blockStart now (headerByte l) = some i →
      stepByte now (headerByte l) (takeByte (headerByte l) rest s) =
        exec i (takeByte (headerByte l) rest s) :=
    fun i hi => stepByte_decoded (by rw [takeByte_regs, hs]; exact hi)
  have hkept := Kept.take (headerByte l) rest s
  cases l with
  | len128 => exact ⟨_, (hdec (.bsSoh now) rfl).trans (exec_bsSoh now _), rfl, rfl, hkept.update rfl⟩
  | len1024 =>
    have hcap := Nat.le_antisymm (blockLen_le_1024 _) hfits
    exact ⟨_, (hdec (.bsStx now) rfl).trans ((stxChecksCapacity now _).1 hcap), rfl, rfl,
      hkept.update rfl⟩

/-- The number byte (R167). -/
theorem stepByte_number {now : Time} {s : State} (hs : s.regs.state = .blockNumber) (n : Byte)
    (rest : List Byte) : ∃ u, stepByte now n (takeByte n rest s) = .next u ∧
      u.regs.state = .blockNumberCheck ∧ u.regs.blockNumber = n ∧ u.regs.blockSize = s.regs.blockSize ∧
      Kept s u :=
  ⟨_, stepByte_decoded (i := .bnByte n now) (by rw [takeByte_regs, hs]; rfl), rfl, rfl, rfl,
    (Kept.take n rest s).update rfl⟩

/-- The complement of a number in sequence (R170). -/
theorem stepByte_complement {now : Time} {n : Byte} {s : State}
    (hs : s.regs.state = .blockNumberCheck) (hn : s.regs.blockNumber = n)
    (hseq : inSequence n s.regs.expectedBlockNumber = true) (rest : List Byte) :
    ∃ u, stepByte now (~~~n) (takeByte (~~~n) rest s) = .next u ∧ u.regs.state = .dataBlock ∧
      u.regs.blockNumber = n ∧ u.regs.blockSize = s.regs.blockSize ∧ u.regs.cursor = 0 ∧
      u.RunningCheck ∧ Kept s u := by
  have hpair : pairGood n (~~~n) = true := beq_self_eq_true _
  refine ⟨goto .dataBlock (freshBlock (preamble now (takeByte (~~~n) rest s))), ?_, rfl, hn, rfl, rfl,
    fun _ => rfl, (Kept.take _ rest s).update rfl⟩
  rw [stepByte_decoded (i := .bncByte (~~~n) now) (by rw [takeByte_regs, hs]; rfl), exec_bncByte,
    takeByte_regs, hn, if_pos hpair, if_pos hseq]

/-! ### The payload so far -/

/-- From `s`, a block of length `l` numbered `n` has been received up to the payload bytes `got`. -/
structure Received (s : State) (l : BlockLen) (n : Byte) (got : List Byte) (u : State) : Prop where
  inv : u.Inv
  runningCheck : u.RunningCheck
  state : u.regs.state = if got.length = l.bytes then .dataCheck else .dataBlock
  blockNumber : u.regs.blockNumber = n
  blockSize : u.regs.blockSize = l
  cursor : u.regs.cursor.toNat = got.length
  buffer : memRead 0 got.length u = got
  kept : Kept s u

theorem Received.running {s u : State} {l : BlockLen} {n : Byte} {got : List Byte}
    (h : Received s l n got u) : u.regs.state ≠ .idle := by
  rw [h.state]
  split_ifs <;> nofun

/-- `acc` is the check value of the payload so far (R141). -/
theorem Received.acc {s u : State} {l : BlockLen} {n : Byte} {got : List Byte}
    (h : Received s l n got u) : u.regs.acc = payloadCheck s.regs.crcMode got := by
  have hin : u.regs.state = .dataBlock ∨ u.regs.state = .dataCheck ∨ u.regs.state = .dataCheckCrc := by
    rw [h.state]
    split_ifs
    · exact .inr (.inl rfl)
    · exact .inl rfl
  rw [h.runningCheck hin, h.cursor, h.buffer, h.kept.crcMode]

/-- One payload byte more. -/
theorem Received.byte {now : Time} {s u : State} {l : BlockLen} {n : Byte} {got : List Byte}
    (h : Received s l n got u) (hmore : got.length < l.bytes) (b : Byte) (rest : List Byte) :
    ∃ v, stepByte now b (takeByte b rest u) = .next v ∧ Received s l n (got ++ [b]) v := by
  have hstate : u.regs.state = .dataBlock := h.state.trans (if_neg (Nat.ne_of_lt hmore))
  have hcursor := h.inv.cursor_lt hstate
  have hstep := (stepByte_decoded (now := now) (b := b) (s := takeByte b rest u) (i := .dbByte b now)
    (by rw [takeByte_regs, hstate]; rfl)).trans (exec_dbByte_of_lt hcursor)
  obtain ⟨-, hsum⟩ := h.inv.inPayload hstate
  refine ⟨_, hstep, stepByte_inv (s := takeByte b rest u) h.inv hstep,
    stepByte_runningCheck (s := takeByte b rest u) h.inv h.runningCheck hstep, ?_, h.blockNumber, h.blockSize,
    ?_, ?_, (h.kept.trans (.take b rest u)).update rfl⟩
  · have hlast : u.regs.bytesRemainingInBlock - 1 = 0 ↔ (got ++ [b]).length = l.bytes := by
      rw [count_pred_eq_zero_iff, List.length_append, List.length_singleton, ← h.cursor, ← h.blockSize]
      omega
    simp only [takeByte_regs, hlast, hstate]
  · rw [List.length_append, List.length_singleton, ← h.cursor]
    exact toNat_cursor_succ hcursor
  · have hread := memRead_succ_memWrite h.inv.bufferWf u.regs.cursor.toNat b
    rw [h.cursor, h.buffer] at hread
    rw [List.length_append, List.length_singleton, ← hread, ← h.cursor]
    exact memRead_of_buffer rfl _ _

/-- The payload bytes, to the last. -/
theorem Received.payload {now : Time} {s : State} {l : BlockLen} {n : Byte} (p rest : List Byte) :
    ∀ {got : List Byte} {u : State}, Received s l n got u → got.length + p.length ≤ l.bytes →
      ∃ v, pollLoop now (p ++ rest) u = pollLoop now rest v ∧ Received s l n (got ++ p) v := by
  induction p with
  | nil =>
    intro got u h _
    exact ⟨u, rfl, by rwa [List.append_nil]⟩
  | cons b p ih =>
    intro got u h hlen
    rw [List.length_cons] at hlen
    obtain ⟨v, hv, hgot⟩ := h.byte (now := now) (by omega) b (p ++ rest)
    have hlen' : (got ++ [b]).length + p.length ≤ l.bytes := by
      rw [List.length_append, List.length_singleton]
      omega
    obtain ⟨w, hw, hdone⟩ := ih hgot hlen'
    refine ⟨w, ?_, by rwa [List.append_assoc] at hdone⟩
    rw [List.cons_append, pollLoop_cons_eq h.running hv, hw]

/-- The header byte and the number pair of a block in sequence start the payload (R163, R164, R167, R170). -/
theorem received_header {now : Time} {s : State} {l : BlockLen} {n : Byte} (rest : List Byte)
    (hinv : s.Inv) (hs : s.regs.state = .blockStart) (hfits : l.bytes ≤ s.regs.bufferCapacity.bytes)
    (hseq : inSequence n s.regs.expectedBlockNumber = true) :
    ∃ u, pollLoop now (headerByte l :: n :: ~~~n :: rest) s = pollLoop now rest u ∧
      Received s l n [] u := by
  have hlen : ([] : List Byte).length ≠ l.bytes := by cases l <;> nofun
  obtain ⟨u₁, h₁, hs₁, hl₁, hk₁⟩ := stepByte_headerByte (now := now) hs hfits (n :: ~~~n :: rest)
  obtain ⟨u₂, h₂, hs₂, hn₂, hl₂, hk₂⟩ := stepByte_number (now := now) hs₁ n (~~~n :: rest)
  have hk := hk₁.trans hk₂
  obtain ⟨u₃, h₃, hs₃, hn₃, hl₃, hc₃, hrc₃, hk₃⟩ :=
    stepByte_complement (now := now) hs₂ hn₂ (hk.expected.symm ▸ hseq) rest
  have hinv₁ := stepByte_inv (s := takeByte _ _ s) hinv h₁
  have hinv₂ := stepByte_inv (s := takeByte _ _ u₁) hinv₁ h₂
  have hinv₃ := stepByte_inv (s := takeByte _ _ u₂) hinv₂ h₃
  refine ⟨u₃, ?_, hinv₃, hrc₃, hs₃.trans (if_neg hlen).symm, hn₃, hl₃.trans (hl₂.trans hl₁), ?_, rfl,
    hk.trans hk₃⟩
  · rw [pollLoop_cons_eq (by rw [hs]; nofun) h₁, pollLoop_cons_eq (by rw [hs₁]; nofun) h₂,
      pollLoop_cons_eq (by rw [hs₂]; nofun) h₃]
  · rw [hc₃]
    rfl

/-! ### The trailer -/

/-- Where a block's verdict is reached: the frame is taken, number and payload are in place. -/
structure AtVerdict (s : State) (l : BlockLen) (n : Byte) (p : List Byte) (u : State) : Prop where
  rx : u.rx = []
  blockNumber : u.regs.blockNumber = n
  blockSize : u.regs.blockSize = l
  buffer : memRead 0 l.bytes u = p
  kept : Kept s u

theorem payloadCheck_sum_lt (p : List Byte) : (payloadCheck false p).toNat < 256 := by
  rw [payloadCheck_sum_toNat]
  exact Nat.mod_lt _ (by decide)

/-- A checksum trailer matches exactly the payloads with its check value. -/
theorem checksumMatches_trailer (p q : List Byte) :
    checksumMatches (payloadCheck false p) ((payloadCheck false q).setWidth 8) =
      decide (payloadCheck false p = payloadCheck false q) := by
  have hp := payloadCheck_sum_lt p
  have hq := payloadCheck_sum_lt q
  rw [Bool.eq_iff_iff, checksumMatches_iff, decide_eq_true_iff, ← BitVec.toNat_inj, BitVec.toNat_setWidth]
  omega

/-- So does a CRC trailer. -/
theorem crcMatches_trailer (acc c : BitVec 16) :
    crcMatches acc (c.extractLsb' 8 8) (c.setWidth 8) = decide (acc = c) := by
  rw [Bool.eq_iff_iff, crcMatches_iff, decide_eq_true_iff, ← BitVec.toNat_inj, BitVec.toNat_setWidth,
    BitVec.extractLsb'_toNat, Nat.shiftRight_eq_div_pow]
  omega

/-- The high trailer byte in CRC mode is kept (R173). -/
theorem stepByte_trailerHigh {now : Time} {s : State} (hs : s.regs.state = .dataCheck)
    (hcrc : s.regs.crcMode = true) (b : Byte) (rest : List Byte) :
    ∃ u, stepByte now b (takeByte b rest s) = .next u ∧ u.regs.state = .dataCheckCrc ∧
      u.regs.trailerHi = b ∧ u.regs.acc = s.regs.acc ∧ u.regs.blockNumber = s.regs.blockNumber ∧
      u.regs.blockSize = s.regs.blockSize ∧ u.regs.receiveBuffer = s.regs.receiveBuffer ∧ Kept s u := by
  have hdec : stepByte now b (takeByte b rest s) = exec (.dcByte b now) (takeByte b rest s) :=
    stepByte_decoded (by rw [takeByte_regs, hs]; rfl)
  exact ⟨_, hdec.trans (exec_dcByte_of_crc hcrc), rfl, rfl, rfl, rfl, rfl, rfl,
    (Kept.take b rest s).update rfl⟩

/-- The trailer made for `q`, after the whole payload `p`, leads to the verdict on their check values. -/
theorem Received.trailer {now : Time} {s u : State} {l : BlockLen} {n : Byte} {p : List Byte}
    (h : Received s l n p u) (hlen : p.length = l.bytes) (q : List Byte) :
    ∃ w, pollLoop now (trailerOf s.regs.crcMode (payloadCheck s.regs.crcMode q)) u =
        check (decide (payloadCheck s.regs.crcMode p = payloadCheck s.regs.crcMode q)) now w ∧
      AtVerdict s l n p w := by
  have hstate : u.regs.state = .dataCheck := h.state.trans (if_pos hlen)
  have hacc := h.acc
  have hbuffer := h.buffer
  rw [hlen] at hbuffer
  cases hmode : s.regs.crcMode with
  | false =>
    have humode : u.regs.crcMode = false := h.kept.crcMode.trans hmode
    rw [hmode] at hacc
    refine ⟨preamble now (takeByte ((payloadCheck false q).setWidth 8) [] u), ?_, rfl, h.blockNumber,
      h.blockSize, hbuffer, (h.kept.trans (.take _ _ u)).update rfl⟩
    rw [trailerOf, if_neg Bool.false_ne_true, pollLoop_last h.running,
      stepByte_decoded (i := .dcByte _ now) (by rw [takeByte_regs, hstate]; rfl),
      exec_dcByte_of_sum (s := takeByte _ _ u) humode, takeByte_regs, hacc, checksumMatches_trailer]
  | true =>
    have humode : u.regs.crcMode = true := h.kept.crcMode.trans hmode
    rw [hmode] at hacc
    obtain ⟨v, hv, hs, hhi, hva, hvn, hvl, hvb, hvk⟩ := stepByte_trailerHigh (now := now) hstate humode
      ((payloadCheck true q).extractLsb' 8 8) [(payloadCheck true q).setWidth 8]
    refine ⟨preamble now (takeByte ((payloadCheck true q).setWidth 8) [] v), ?_, rfl,
      hvn.trans h.blockNumber, hvl.trans h.blockSize, (memRead_of_buffer hvb _ _).trans hbuffer,
      ((h.kept.trans hvk).trans (.take _ _ v)).update rfl⟩
    rw [trailerOf, if_pos rfl, pollLoop_cons_eq h.running hv, pollLoop_last (by rw [hs]; nofun),
      stepByte_decoded (i := .dccByte _ now) (by rw [takeByte_regs, hs]; rfl), exec_dccByte,
      takeByte_regs, hhi, hva, hacc, crcMatches_trailer]

/-! ### The whole frame -/

theorem BlockWaits.received {now : Time} {s : State} {l : BlockLen} {n : Byte} {p q : List Byte}
    (h : BlockWaits s l n p q) (hseq : inSequence n s.regs.expectedBlockNumber = true) :
    ∃ w, exec (.poll now) s =
        returnState (check (decide (payloadCheck s.regs.crcMode p = payloadCheck s.regs.crcMode q)) now w) ∧
      AtVerdict s l n p w := by
  have hrun : s.regs.state ≠ .idle := by rw [h.atStart]; nofun
  have hrx : s.rx ≠ [] := by rw [h.queued]; nofun
  have hask := Kept.ask s.rx.length s
  obtain ⟨u, hu, hstart⟩ := received_header (now := now) (s := s.call (.rxAvailable s.rx.length))
    (p ++ trailerOf s.regs.crcMode (payloadCheck s.regs.crcMode q)) h.inv h.atStart h.fits hseq
  obtain ⟨v, hv, hpayload⟩ := hstart.payload (now := now) p
    (trailerOf s.regs.crcMode (payloadCheck s.regs.crcMode q)) (by rw [List.length_nil, h.length]; omega)
  obtain ⟨w, hw, hverdict⟩ := hpayload.trailer (now := now) h.length q
  refine ⟨w, ?_, hverdict.rx, hverdict.blockNumber, hverdict.blockSize, hverdict.buffer,
    hask.trans hverdict.kept⟩
  rw [exec_poll_of_running hrun, pollRunning_of_bytes hrx]
  have hqueue := congrArg (pollLoop now · (s.call (.rxAvailable s.rx.length))) h.queued
  exact congrArg returnState (hqueue.trans (hu.trans (hv.trans hw)))

/-! ### The verdict on a waiting block -/

/-- The storage calls after calls that send a reply. -/
theorem storageCalls_emitReply (r : Reply) (s : State) : (emitReply r s).storageCalls = s.storageCalls := by
  simp [State.storageCalls, Call.isStorage]

theorem inSequence_expected (n : Byte) : inSequence n n = true := (inSequence_iff n n).2 (.inl rfl)

/-- V.NEW with a file that takes the write, on what the statements look at (R177). -/
theorem exec_vNew_writes {now : Time} {s : State} {h : Handle} (hopen : s.regs.openFile = some h)
    (hok : s.writeReply = true) : ∃ t, exec (.vNew now) s = .next t ∧ t.rx = s.rx ∧ t.tx = s.tx ∧
      t.storageCalls = s.storageCalls ++ (if writeCount s.regs = 0 then []
        else [.stWrite h (memRead 0 (writeCount s.regs) s) true]) ∧
      t.regs = { s.regs with
        expectedBlockNumber := s.regs.expectedBlockNumber + 1
        fileBytesRemaining := s.regs.fileBytesRemaining - BitVec.ofNat 32 (writeCount s.regs)
        deadline := now + Config.tLong, state := .blockStart } := by
  refine ⟨_, exec_vNew_of_some hopen, ?_⟩
  by_cases hzero : writeCount s.regs = 0
  · rw [if_pos hzero, if_pos hzero, hzero]
    exact ⟨rfl, rfl, (List.append_nil _).symm, rfl⟩
  · rw [if_neg hzero, if_neg hzero, if_pos hok, writeBlock_countBlock_eq, hok, memRead_zero_eq,
      writeDrawn_eq]
    exact ⟨rfl, rfl, List.filter_append .., rfl⟩

/-- Settles O58: the verdict on a valid frame is new data, written from the payload in the buffer. -/
theorem validBlockWrittenOnce : Obligations.ValidBlockWrittenOnce := by
  unfold Obligations.ValidBlockWrittenOnce
  intro now s l p h k hwaits hopen hok hk
  obtain ⟨w, hpoll, hw⟩ := hwaits.received (now := now) (inSequence_expected _)
  have hkept := hw.kept
  have hcount : writeCount (emitReply .ack w).regs = k := by
    simp only [writeCount, emitReply_regs, hw.blockSize, hkept.fileBytes, hk]
  obtain ⟨t, ht, hrx, htx, hstorage, hregs⟩ := exec_vNew_writes (now := now) (s := emitReply .ack w)
    (hkept.openFile.trans hopen) (hkept.writeReply.trans hok)
  have hselect : selectVerdict w.regs.blockNumber w.regs.expectedBlockNumber w.regs.batchMode now =
      .vNew now := if_pos (hw.blockNumber.trans hkept.expected.symm)
  have hverdict : check true now w = .next t := by
    rw [check_eq_exec, if_pos rfl, exec_verdict, hselect, ht]
  have hpayload : memRead 0 k w = p.take k := by
    rw [← hw.buffer, take_memRead, Nat.min_eq_left (hk ▸ Nat.min_le_left _ _)]
  rw [hpoll, decide_eq_true rfl, hverdict]
  rw [hcount] at hregs hstorage
  have hexpected : t.regs.expectedBlockNumber = s.regs.expectedBlockNumber + 1 := by
    rw [hregs]
    exact congrArg (· + 1) hkept.expected
  have hfile : t.regs.fileBytesRemaining = s.regs.fileBytesRemaining - BitVec.ofNat 32 k := by
    rw [hregs]
    exact congrArg (· - BitVec.ofNat 32 k) hkept.fileBytes
  refine ⟨_, rfl, hrx.trans hw.rx, htx.trans (congrArg (· ++ [0x06#8]) hkept.tx), ?_, ?_, ?_, ?_⟩
  · have hbytes : memRead 0 k (emitReply .ack w) = p.take k := hpayload
    rw [hbytes, storageCalls_emitReply, hkept.storageCalls] at hstorage
    exact hstorage
  · rw [answer_regs, hexpected, BitVec.toNat_add]
    rfl
  · rw [answer_regs, hfile, fileBytes_sub_eq (hk ▸ Nat.min_le_right _ _), BitVec.toNat_ofNat]
    omega
  · rw [answer_regs, hregs]
    exact ⟨rfl, rfl, rfl, hkept.openFile.trans hopen, hkept.filename, hkept.fnameLen⟩

/-- Settles O59: the verdict on a repeated frame is the duplicate, which only acknowledges. -/
theorem repeatedBlockNotWritten : Obligations.RepeatedBlockNotWritten := by
  unfold Obligations.RepeatedBlockNotWritten
  intro now s l n p hwaits hprev hheader
  obtain ⟨w, hpoll, hw⟩ := hwaits.received (now := now) ((inSequence_iff _ _).2 (.inr hprev))
  have hkept := hw.kept
  have hne : w.regs.blockNumber ≠ w.regs.expectedBlockNumber := by
    rw [hw.blockNumber, hkept.expected]
    rintro rfl
    omega
  have hhdr : ¬(w.regs.batchMode = true ∧ w.regs.blockNumber = 0x00#8) := by
    rw [hw.blockNumber, hkept.batchMode]
    exact fun ⟨hbatch, hzero⟩ => hheader hbatch hzero
  have hverdict : check true now w = .next (goto .blockStart (emitReply .ack w)) := by
    rw [check_eq_exec, if_pos rfl, exec_verdict, selectVerdict_of_duplicate hne hhdr, exec_vDup]
  rw [hpoll, decide_eq_true rfl, hverdict]
  exact ⟨_, rfl, hw.rx, congrArg (· ++ [0x06#8]) hkept.tx,
    (storageCalls_emitReply .ack w).trans hkept.storageCalls, hkept.expected, hkept.fileBytes, rfl,
    hkept.openFile⟩

/-- Settles O60: the check values differ (`payloadCheck_ne_of_byte_ne`), so the verdict is the NAK. -/
theorem corruptBlockRefused : Obligations.CorruptBlockRefused := by
  unfold Obligations.CorruptBlockRefused
  intro now s l n pre post b b' hwaits hne hseq
  obtain ⟨w, hpoll, hw⟩ := hwaits.received (now := now) ((inSequence_iff _ _).2 hseq)
  have hkept := hw.kept
  have hcheck := payloadCheck_ne_of_byte_ne s.regs.crcMode pre post hne.symm
  have hverdict : check false now w = .next (goto .blockStart (emitReply .nak w)) := rfl
  rw [hpoll, decide_eq_false hcheck, hverdict]
  exact ⟨_, rfl, hw.rx, congrArg (· ++ [0x15#8]) hkept.tx,
    (storageCalls_emitReply .nak w).trans hkept.storageCalls, hkept.expected, hkept.fileBytes, rfl, rfl,
    hkept.openFile⟩

end Sys2Proof.Machine
end

section
/-! PROOFS. Partial arrival (41_block_assembler.md R143): what a byte does depends on nothing the queue, the
record of receive calls or the returned answer holds, so bytes may come in one POLL or in two. -/

namespace Sys2Proof.Machine

/-! ### States that run alike -/

/-- All that an operation of a running session looks at or leaves behind, the queue and the calls on it
aside, is the same. -/
structure SameRun (s t : State) : Prop where
  regs : t.regs = s.regs
  tx : t.tx = s.tx
  storageCalls : t.storageCalls = s.storageCalls
  openScript : t.openScript = s.openScript
  writeScript : t.writeScript = s.writeScript
  draws : t.draws = s.draws

theorem SameRun.symm {s t : State} (h : SameRun s t) : SameRun t s :=
  ⟨h.regs.symm, h.tx.symm, h.storageCalls.symm, h.openScript.symm, h.writeScript.symm, h.draws.symm⟩

theorem SameRun.trans {s t u : State} (h : SameRun s t) (k : SameRun t u) : SameRun s u :=
  ⟨k.regs.trans h.regs, k.tx.trans h.tx, k.storageCalls.trans h.storageCalls,
    k.openScript.trans h.openScript, k.writeScript.trans h.writeScript, k.draws.trans h.draws⟩

/-- A question to the queue. -/
theorem SameRun.ask (n : Nat) (s : State) : SameRun s (s.call (.rxAvailable n)) :=
  ⟨rfl, rfl, storageCalls_call rfl, rfl, rfl, rfl⟩

/-- A byte taken from the queue. -/
theorem SameRun.take (b : Byte) (rest : List Byte) (s : State) : SameRun s (takeByte b rest s) :=
  ⟨rfl, rfl, storageCalls_call (c := .rxRead b) rfl, rfl, rfl, rfl⟩

section

variable {s t : State} (h : SameRun s t)
include h

/-- The same update of the registers. -/
theorem SameRun.update (f : Regs → Regs) :
    SameRun { s with regs := f s.regs } { t with regs := f t.regs } :=
  ⟨congrArg f h.regs, h.tx, h.storageCalls, h.openScript, h.writeScript, h.draws⟩

theorem SameRun.readByte : t.readByte = s.readByte :=
  funext (readByte_of_buffer (congrArg Regs.receiveBuffer h.regs))

theorem SameRun.openReply : t.openReply = s.openReply := openReply_of_eq h.openScript h.draws

theorem SameRun.writeReply : t.writeReply = s.writeReply := writeReply_of_eq h.writeScript h.draws

/-- The same calls added. -/
theorem SameRun.storageCalls_append (added : List Call) :
    (t.calls ++ added).filter Call.isStorage = (s.calls ++ added).filter Call.isStorage := by
  rw [List.filter_append, List.filter_append]
  exact congrArg (· ++ added.filter Call.isStorage) h.storageCalls

theorem SameRun.emitReply (r : Reply) : SameRun (emitReply r s) (emitReply r t) :=
  ⟨(h.update fun q => { q with pendingReply := r }).regs, congrArg (· ++ [r.byte]) h.tx,
    h.storageCalls_append _, h.openScript, h.writeScript, h.draws⟩

theorem SameRun.closeFile : SameRun (closeFile s) (closeFile t) := by
  rw [closeFile_eq, closeFile_eq, h.regs]
  exact ⟨rfl, h.tx, h.storageCalls_append _, h.openScript, h.writeScript, h.draws⟩

theorem SameRun.enterIdle : SameRun (enterIdle s) (enterIdle t) :=
  h.closeFile.update fun q => { q with state := .idle }

theorem SameRun.writeBlock_countBlock (f : Handle) (k : Nat) :
    SameRun (writeBlock f k (countBlock s)) (writeBlock f k (countBlock t)) := by
  rw [writeBlock_countBlock_eq, writeBlock_countBlock_eq, writeDrawn_eq, writeDrawn_eq, h.regs, h.readByte,
    h.writeReply, h.writeScript, h.draws]
  exact ⟨rfl, h.tx, h.storageCalls_append _, h.openScript, rfl, rfl⟩

theorem SameRun.headerPayload : headerPayload t = headerPayload s := by
  rw [Machine.headerPayload, h.regs, memRead_of_buffer (congrArg Regs.receiveBuffer h.regs),
    Machine.headerPayload]

theorem SameRun.openCurrent_nameNextFile :
    SameRun (openCurrent (nameNextFile s)) (openCurrent (nameNextFile t)) := by
  rw [openCurrent_nameNextFile_eq, openCurrent_nameNextFile_eq, openDrawn_eq, openDrawn_eq, h.regs,
    h.headerPayload, h.openReply, h.openScript, h.draws]
  exact ⟨rfl, h.tx, h.storageCalls_append _, rfl, h.writeScript, rfl⟩

theorem SameRun.awaitFirstBlock_holdFile (f : Handle) :
    SameRun (awaitFirstBlock (holdFile f s)) (awaitFirstBlock (holdFile f t)) :=
  h.update fun q => { q with
    openFile := some f, fileCompleted := false, expectedBlockNumber := 1
    pendingReply := initReply q.crcMode, state := .blockStart }

/-! ### Operations run alike -/

theorem SameRun.exec_vNew {now : Time} {s' t' : State} (hs : exec (.vNew now) s = .next s')
    (ht : exec (.vNew now) t = .next t') : SameRun s' t' := by
  cases hopen : s.regs.openFile with
  | none =>
    have hopen' : t.regs.openFile = none := h.regs ▸ hopen
    rw [exec_vNew_of_none hopen] at hs
    rw [exec_vNew_of_none hopen'] at ht
    cases hs
    cases ht
    exact h.update fun q => { q with
      expectedBlockNumber := q.expectedBlockNumber + 1, storageError := true, pendingReply := .can
      state := .purge }
  | some f =>
    have hopen' : t.regs.openFile = some f := h.regs ▸ hopen
    rw [exec_vNew_of_some hopen] at hs
    rw [exec_vNew_of_some hopen', h.regs, h.writeReply] at ht
    have hwrite := h.writeBlock_countBlock f (writeCount s.regs)
    cases hs
    cases ht
    split_ifs
    · exact h.update fun q => { q with
        expectedBlockNumber := q.expectedBlockNumber + 1
        fileBytesRemaining := q.fileBytesRemaining - BitVec.ofNat 32 0
        deadline := now + Config.tLong, state := .blockStart }
    · exact hwrite.update fun q => { q with
        fileBytesRemaining := q.fileBytesRemaining - BitVec.ofNat 32 (writeCount s.regs)
        deadline := now + Config.tLong, state := .blockStart }
    · exact hwrite.update fun q => { q with
        storageError := true, pendingReply := .can, state := .purge }

theorem SameRun.exec_vHdr {s' t' : State} (hs : exec .vHdr s = .next s') (ht : exec .vHdr t = .next t') :
    SameRun s' t' := by
  by_cases hname : headerName (Machine.headerPayload s) = []
  · have hname' : headerName (Machine.headerPayload t) = [] := h.headerPayload ▸ hname
    rw [exec_vHdr_of_empty hname] at hs
    rw [exec_vHdr_of_empty hname'] at ht
    cases hs
    cases ht
    exact (h.update fun q => { q with fnameLen := 0 }).enterIdle
  · have hname' : headerName (Machine.headerPayload t) ≠ [] := h.headerPayload ▸ hname
    have hfile := h.openCurrent_nameNextFile
    cases hopen : s.openReply with
    | none =>
      rw [exec_vHdr_of_failed hname hopen] at hs
      rw [exec_vHdr_of_failed hname' (h.openReply.trans hopen)] at ht
      cases hs
      cases ht
      exact hfile.update fun q => { q with
        storageError := true, pendingReply := .can, state := .purge }
    | some f =>
      rw [exec_vHdr_of_opened hname hopen] at hs
      rw [exec_vHdr_of_opened hname' (h.openReply.trans hopen)] at ht
      cases hs
      cases ht
      exact hfile.awaitFirstBlock_holdFile f

theorem SameRun.check {m : Bool} {now : Time} {s' t' : State} (hs : check m now s = .next s')
    (ht : check m now t = .next t') : SameRun s' t' := by
  rw [check_eq_exec] at hs ht
  cases m with
  | false =>
    rw [if_neg Bool.false_ne_true, exec_vNak] at hs ht
    cases hs
    cases ht
    exact (h.emitReply .nak).update fun q => { q with state := .blockStart }
  | true =>
    rw [if_pos rfl, exec_verdict] at hs ht
    rw [h.regs] at ht
    have hack := h.emitReply .ack
    unfold selectVerdict at hs ht
    split_ifs at hs ht
    · exact hack.exec_vNew hs ht
    · exact hack.exec_vHdr hs ht
    · rw [exec_vDup] at hs ht
      cases hs
      cases ht
      exact hack.update fun q => { q with state := .blockStart }

theorem SameRun.preamble (now : Time) : SameRun (preamble now s) (preamble now t) :=
  h.update fun q => { q with deadline := now + Config.tShort }

theorem SameRun.exec_bsEot {now : Time} {s' t' : State} (hs : exec (.bsEot now) s = .next s')
    (ht : exec (.bsEot now) t = .next t') : SameRun s' t' := by
  cases hopen : s.regs.openFile with
  | none =>
    rw [exec_bsEot_of_none hopen] at hs
    rw [exec_bsEot_of_none (h.regs ▸ hopen)] at ht
    cases hs
    cases ht
    exact (h.preamble now).enterIdle
  | some f =>
    rw [exec_bsEot_of_some hopen, afterEot_eq] at hs
    rw [exec_bsEot_of_some (h.regs ▸ hopen), afterEot_eq] at ht
    cases hs
    cases ht
    exact ((h.preamble now).emitReply .ack).closeFile.update fun q =>
      if q.batchMode = true ∧ q.fnameLen ≠ 0
      then { q with fileCompleted := true, expectedBlockNumber := 1
                    pendingReply := initReply q.crcMode, state := .blockStart }
      else { q with fileCompleted := true, state := .idle }

theorem SameRun.exec_bncByte {b : Byte} {now : Time} {s' t' : State}
    (hs : exec (.bncByte b now) s = .next s') (ht : exec (.bncByte b now) t = .next t') :
    SameRun s' t' := by
  have hfresh := (h.preamble now).update fun q => { q with
    acc := 0, cursor := 0, bytesRemainingInBlock := BitVec.ofNat 11 q.blockSize.bytes }
  rw [Machine.exec_bncByte] at hs ht
  rw [h.regs] at ht
  cases hs
  cases ht
  split_ifs
  · exact hfresh.update fun q => { q with state := .dataBlock }
  · exact hfresh.update fun q => { q with pendingReply := .can, state := .purge }
  · exact (h.preamble now).update fun q => { q with pendingReply := .nak, state := .purge }

theorem SameRun.exec_dbByte {b : Byte} {now : Time} {s' t' : State}
    (hs : exec (.dbByte b now) s = .next s') (ht : exec (.dbByte b now) t = .next t') :
    SameRun s' t' := by
  by_cases hc : s.regs.cursor.toNat < Config.bufPhys
  · rw [exec_dbByte_of_lt hc] at hs
    rw [exec_dbByte_of_lt (h.regs ▸ hc), h.regs] at ht
    cases hs
    cases ht
    exact ⟨rfl, h.tx, h.storageCalls, h.openScript, h.writeScript, h.draws⟩
  · rw [exec_dbByte_of_ge (Nat.le_of_not_lt hc)] at hs
    cases hs

theorem SameRun.exec_dcByte {b : Byte} {now : Time} {s' t' : State}
    (hs : exec (.dcByte b now) s = .next s') (ht : exec (.dcByte b now) t = .next t') :
    SameRun s' t' := by
  cases hcrc : s.regs.crcMode with
  | true =>
    rw [exec_dcByte_of_crc hcrc] at hs
    rw [exec_dcByte_of_crc (h.regs ▸ hcrc), h.regs] at ht
    cases hs
    cases ht
    exact ⟨rfl, h.tx, h.storageCalls, h.openScript, h.writeScript, h.draws⟩
  | false =>
    rw [exec_dcByte_of_sum hcrc] at hs
    rw [exec_dcByte_of_sum (h.regs ▸ hcrc), h.regs] at ht
    exact (h.preamble now).check hs ht

/-- One consumed byte acts alike. -/
theorem SameRun.stepByte {now : Time} {b : Byte} {s' t' : State} (hs : stepByte now b s = .next s')
    (ht : stepByte now b t = .next t') : SameRun s' t' := by
  by_cases hidle : s.regs.state = .idle
  · rw [stepByte_of_idle hidle] at hs
    rw [stepByte_of_idle (h.regs ▸ hidle)] at ht
    cases hs
    cases ht
    exact h
  obtain ⟨i, hi, -⟩ := decodeWire_spec hidle now b
  rw [stepByte_decoded hi] at hs
  rw [stepByte_decoded (h.regs ▸ hi)] at ht
  refine decodeWire_cases (P := fun i => exec i s = .next s' → exec i t = .next t' → SameRun s' t') hi
    (fun _ hs ht => ?soh) (fun _ hs ht => ?stx) (fun _ hs ht => ?eot) (fun _ hs ht => ?other)
    (fun _ hs ht => ?number) (fun _ hs ht => ?complement) (fun _ hs ht => ?data) (fun _ hs ht => ?trailer)
    (fun _ hs ht => ?trailerLow) (fun _ hs ht => ?purged) hs ht
  case soh =>
    cases hs
    cases ht
    exact h.update fun q => { q with
      blockSize := .len128, state := .blockNumber, deadline := now + Config.tShort }
  case stx =>
    rw [exec_bsStx] at hs ht
    rw [h.regs] at ht
    cases hs
    cases ht
    split_ifs
    · exact h.update fun q => { q with
        blockSize := .len1024, pendingReply := .nak, state := .purge, deadline := now + Config.tShort }
    · exact h.update fun q => { q with
        blockSize := .len1024, state := .blockNumber, deadline := now + Config.tShort }
  case eot => exact h.exec_bsEot hs ht
  case number =>
    cases hs
    cases ht
    exact h.update fun q => { q with
      blockNumber := b, state := .blockNumberCheck, deadline := now + Config.tShort }
  case complement => exact h.exec_bncByte hs ht
  case data => exact h.exec_dbByte hs ht
  case trailer => exact h.exec_dcByte hs ht
  case trailerLow =>
    rw [exec_dccByte] at hs ht
    rw [h.regs] at ht
    exact (h.preamble now).check hs ht
  case other | purged =>
    cases hs
    cases ht
    exact h.preamble now

end

/-! ### The deadline of a consumed byte -/

theorem exec_vNew_deadline {now : Time} {s t : State} (hs : now ≤ s.regs.deadline)
    (h : exec (.vNew now) s = .next t) : now ≤ t.regs.deadline := by
  obtain rfl | rfl | ⟨f, k, rfl | rfl⟩ := exec_vNew_next h
  · exact hs
  · exact Nat.le_add_right now _
  · exact Nat.le_add_right now _
  · simpa [raise_storage] using hs

theorem exec_vHdr_deadline {s t : State} (h : exec .vHdr s = .next t) :
    t.regs.deadline = s.regs.deadline := by
  obtain rfl | ⟨-, rfl | ⟨f, rfl⟩⟩ := exec_vHdr_next h <;> simp [raise_storage]

theorem check_deadline {m : Bool} {now : Time} {s t : State} (hs : now ≤ s.regs.deadline)
    (h : check m now s = .next t) : now ≤ t.regs.deadline := by
  obtain rfl | hnew | hhdr | rfl := check_outcome h
  · exact hs
  · exact exec_vNew_deadline (s := emitReply .ack s) hs hnew
  · exact hs.trans_eq (exec_vHdr_deadline hhdr).symm
  · exact hs

theorem exec_bsEot_deadline {now : Time} {s t : State} (h : exec (.bsEot now) s = .next t) :
    now ≤ t.regs.deadline := by
  obtain rfl | rfl := exec_bsEot_next h
  · simp
  · rw [afterEot_eq]
    dsimp only
    split_ifs <;> simp

theorem exec_dcByte_deadline {b : Byte} {now : Time} {s t : State}
    (h : exec (.dcByte b now) s = .next t) : now ≤ t.regs.deadline := by
  cases hcrc : s.regs.crcMode with
  | true =>
    rw [exec_dcByte_of_crc hcrc] at h
    cases h
    exact Nat.le_add_right now _
  | false =>
    rw [exec_dcByte_of_sum hcrc] at h
    exact check_deadline (s := preamble now s) (Nat.le_add_right now _) h

theorem exec_dbByte_deadline {b : Byte} {now : Time} {s t : State}
    (h : exec (.dbByte b now) s = .next t) : now ≤ t.regs.deadline := by
  by_cases hc : s.regs.cursor.toNat < Config.bufPhys
  · rw [exec_dbByte_of_lt hc] at h
    cases h
    exact Nat.le_add_right now _
  · rw [exec_dbByte_of_ge (Nat.le_of_not_lt hc)] at h
    cases h

/-- No consumed byte leaves the deadline behind `now` (R168, R177). -/
theorem stepByte_deadline {now : Time} {b : Byte} {s t : State} (hrun : s.regs.state ≠ .idle)
    (h : stepByte now b s = .next t) : now ≤ t.regs.deadline := by
  have hpre : now ≤ (preamble now s).regs.deadline := Nat.le_add_right now _
  obtain ⟨i, hi, -⟩ := decodeWire_spec hrun now b
  rw [stepByte_decoded hi] at h
  refine decodeWire_cases (P := fun i => exec i s = .next t → now ≤ t.regs.deadline) hi
    (fun _ h => ?soh) (fun _ h => ?stx) (fun _ h => ?eot) (fun _ h => ?other)
    (fun _ h => ?number) (fun _ h => ?complement) (fun _ h => ?data) (fun _ h => ?trailer)
    (fun _ h => ?trailerLow) (fun _ h => ?purged) h
  case stx =>
    rw [exec_bsStx] at h
    cases h
    split_ifs <;> exact hpre
  case eot => exact exec_bsEot_deadline h
  case complement =>
    rw [exec_bncByte] at h
    cases h
    split_ifs <;> exact hpre
  case data => exact exec_dbByte_deadline h
  case trailer => exact exec_dcByte_deadline h
  case trailerLow => exact check_deadline hpre h
  case soh | other | number | purged =>
    cases h
    exact hpre

theorem pollLoop_deadline {now : Time} {xs : List Byte} {s t : State} (h : pollLoop now xs s = .next t)
    (hxs : xs ≠ []) (hrun : s.regs.state ≠ .idle) : now ≤ t.regs.deadline := by
  obtain ⟨b, rest, rfl⟩ := List.exists_cons_of_ne_nil hxs
  obtain ⟨u, hu, hloop⟩ := (pollLoop_cons_of_running hrun).1 h
  exact pollLoop_induct (P := fun v => now ≤ v.regs.deadline)
    (fun b rest v _ hv _ hstep => stepByte_deadline (s := takeByte b rest v) hv hstep) rest u t
    (stepByte_deadline (s := takeByte b rest s) hrun hu) hloop

/-! ### One POLL or two -/

/-- The loop acts alike on the same bytes. -/
theorem pollLoop_sameRun {now : Time} (xs : List Byte) : ∀ {s t s' t' : State}, SameRun s t →
    t.rx = s.rx → pollLoop now xs s = .next s' → pollLoop now xs t = .next t' →
    SameRun s' t' ∧ t'.rx = s'.rx := by
  induction xs with
  | nil =>
    intro s t s' t' h hrx hs ht
    cases hs
    cases ht
    exact ⟨h, hrx⟩
  | cons b rest ih =>
    intro s t s' t' h hrx hs ht
    by_cases hidle : s.regs.state = .idle
    · rw [pollLoop_idle hidle] at hs
      rw [pollLoop_idle (h.regs ▸ hidle)] at ht
      cases hs
      cases ht
      exact ⟨h, hrx⟩
    · obtain ⟨u, hu, hs⟩ := (pollLoop_cons_of_running hidle).1 hs
      obtain ⟨v, hv, ht⟩ := (pollLoop_cons_of_running (h.regs ▸ hidle)).1 ht
      have htaken : SameRun (takeByte b rest s) (takeByte b rest t) :=
        ((SameRun.take b rest s).symm.trans h).trans (.take b rest t)
      exact ih (htaken.stepByte hu hv) ((stepByte_frame hv).rx.trans (stepByte_frame hu).rx.symm) hs ht

/-- The loop over `xs ++ ys` is alike to that over `xs` up to where the latter ends: in `Idle`, with `ys` left
behind, or running, with `ys` to go. -/
theorem pollLoop_append {now : Time} (xs ys : List Byte) : ∀ {s t s' t' : State}, SameRun s t →
    s.rx = xs → t.rx = xs ++ ys → pollLoop now xs s = .next s' → pollLoop now (xs ++ ys) t = .next t' →
    (s'.regs.state = .idle ∧ SameRun s' t' ∧ t'.rx = s'.rx ++ ys) ∨
    (s'.regs.state ≠ .idle ∧ s'.rx = [] ∧ ∃ v, SameRun s' v ∧ v.rx = ys ∧ pollLoop now ys v = .next t') := by
  induction xs with
  | nil =>
    intro s t s' t' h hsx htx hs ht
    cases hs
    by_cases hidle : s.regs.state = .idle
    · rw [pollLoop_idle (h.regs ▸ hidle)] at ht
      cases ht
      exact .inl ⟨hidle, h, by rw [htx, hsx]⟩
    · exact .inr ⟨hidle, hsx, t, h, htx, ht⟩
  | cons b rest ih =>
    intro s t s' t' h hsx htx hs ht
    by_cases hidle : s.regs.state = .idle
    · rw [pollLoop_idle hidle] at hs
      rw [pollLoop_idle (h.regs ▸ hidle)] at ht
      cases hs
      cases ht
      exact .inl ⟨hidle, h, by rw [htx, hsx]⟩
    · obtain ⟨u, hu, hs⟩ := (pollLoop_cons_of_running hidle).1 hs
      rw [List.cons_append] at ht
      obtain ⟨v, hv, ht⟩ := (pollLoop_cons_of_running (h.regs ▸ hidle)).1 ht
      have htaken : SameRun (takeByte b rest s) (takeByte b (rest ++ ys) t) :=
        ((SameRun.take b rest s).symm.trans h).trans (.take b (rest ++ ys) t)
      exact ih (htaken.stepByte hu hv) (stepByte_frame hu).rx (stepByte_frame hv).rx hs ht

/-- What a POLL leaves that found `Idle`. -/
theorem eq_of_exec_poll_idle {now : Time} {s t : State} (h : exec (.poll now) s = .next t)
    (hidle : s.regs.state = .idle) : t = answer (.polled 0) s := by
  rw [exec_poll_of_idle hidle] at h
  cases h
  rfl

/-- What a POLL leaves that found no byte before the deadline. -/
theorem eq_of_exec_poll_waiting {now : Time} {s t : State} (h : exec (.poll now) s = .next t)
    (hrun : s.regs.state ≠ .idle) (hrx : s.rx = []) (hwait : now ≤ s.regs.deadline) :
    t = answer (.polled s.regs.state.code) (s.call (.rxAvailable 0)) := by
  rw [exec_poll_of_running hrun, pollRunning_of_waiting hrx hwait] at h
  cases h
  rfl

/-- What a POLL leaves that found bytes: its answer after the loop. -/
theorem exists_of_exec_poll_bytes {now : Time} {s t : State} (h : exec (.poll now) s = .next t)
    (hrun : s.regs.state ≠ .idle) (hrx : s.rx ≠ []) : ∃ u, t = answer (.polled u.regs.state.code) u ∧
      pollLoop now s.rx (s.call (.rxAvailable s.rx.length)) = .next u := by
  rw [exec_poll_of_running hrun, pollRunning_of_bytes hrx, returnState_eq_next_iff] at h
  obtain ⟨u, hu, rfl⟩ := h
  exact ⟨u, rfl, hu⟩

/-- What two POLLs that left alike states have in common. -/
theorem SameRun.answered {s t : State} (h : SameRun s t) (hrx : t.rx = s.rx) :
    t.regs = s.regs ∧ t.rx = s.rx ∧ t.tx = s.tx ∧ t.storageCalls = s.storageCalls ∧
      (Result.polled t.regs.state.code) = .polled s.regs.state.code :=
  ⟨h.regs, hrx, h.tx, h.storageCalls, by rw [h.regs]⟩

/-- Settles O41: the first POLL leaves a state like the one the joint loop passes through (`pollLoop_append`);
from there the second POLL finds `Idle`, no more bytes before the deadline, or the rest of the loop. -/
theorem splitDeliveryIsEqual : Obligations.SplitDeliveryIsEqual := by
  unfold Obligations.SplitDeliveryIsEqual
  intro now s u t t' xs ys hxs hu ht' ht
  by_cases hidle : s.regs.state = .idle
  · obtain rfl := eq_of_exec_poll_idle hu hidle
    obtain rfl := eq_of_exec_poll_idle ht hidle
    obtain rfl := eq_of_exec_poll_idle ht' hidle
    exact ⟨rfl, rfl, rfl, rfl, rfl⟩
  obtain ⟨u, rfl, hloop⟩ := exists_of_exec_poll_bytes hu hidle hxs
  obtain ⟨w, rfl, hjoint⟩ := exists_of_exec_poll_bytes ht hidle (List.append_ne_nil_of_left_ne_nil hxs ys)
  have hstart : SameRun (({ s with rx := xs } : State).call (.rxAvailable xs.length))
      (({ s with rx := xs ++ ys } : State).call (.rxAvailable (xs ++ ys).length)) :=
    ⟨rfl, rfl, (storageCalls_call rfl).trans (storageCalls_call (s := { s with rx := xs }) rfl).symm,
      rfl, rfl, rfl⟩
  obtain ⟨hend, hsame, hrx⟩ | ⟨hrun, hrx, v, hsame, hvx, hrest⟩ :=
    pollLoop_append xs ys hstart rfl rfl hloop hjoint
  · obtain rfl := eq_of_exec_poll_idle ht' hend
    have hcode : w.regs.state.code = 0 := by rw [hsame.regs, hend]; rfl
    exact ⟨hsame.regs, hrx, hsame.tx, hsame.storageCalls, congrArg Result.polled hcode⟩
  · have hmore : (answer (.polled u.regs.state.code) u).rx ++ ys = ys := congrArg (· ++ ys) hrx
    rw [hmore] at ht'
    have hreply : SameRun u { answer (.polled u.regs.state.code) u with rx := ys } :=
      ⟨rfl, rfl, rfl, rfl, rfl, rfl⟩
    by_cases hys : ys = []
    · subst hys
      cases hrest
      have hwait := pollLoop_deadline hloop hxs hidle
      obtain rfl := eq_of_exec_poll_waiting ht' hrun rfl hwait
      exact ((hreply.trans (.ask 0 _)).symm.trans hsame).answered hvx
    · obtain ⟨x, rfl, hsecond⟩ := exists_of_exec_poll_bytes ht' hrun hys
      obtain ⟨hlast, hlastrx⟩ :=
        pollLoop_sameRun ys ((hreply.trans (.ask ys.length _)).symm.trans hsame) hvx hsecond hrest
      exact hlast.answered hlastrx

end Sys2Proof.Machine
end
